-- ==== Sys2Proof/Word.lean ====
section
/-! DEFINITION. The bit vectors of the block: program addresses and references (64 bits, R6 `ADDR_W`,
R89), register values (64 bits, R29), command packets (128 bits, R95). -/

namespace Sys2Proof

/-- A program address: the key of the HistoryTable and the width of `pc` (R6 `ADDR_W` = 64, R23, R30). -/
abbrev Addr := BitVec 64

/-- A register's 64-bit value (R29), or a 64-bit operand or answer of a packet (R95, R98). -/
abbrev Word := BitVec 64

/-- A command packet (R95): the one spelling of an operation. -/
abbrev Packet := BitVec 128

end Sys2Proof
end

