-- ==== Sys2Proof/Syntax.lean ====
section
/-! DEFINITION. The operations of the block as syntax: one constructor of `Instr` per row of
spec/opcode_table.json (R97), with the operand forms of R96. -/

namespace Sys2Proof

/-- A branch outcome (R8): exactly three values. -/
inductive Outcome where
  | taken
  | notTaken
  | unknown
  deriving DecidableEq, Repr, Inhabited

/-- The functional units (R35). -/
inductive FUnit where
  | adder
  | multiplier
  | divider
  deriving DecidableEq, Repr, Inhabited

/-- The five integer pipeline slots (R31). -/
inductive SlotName where
  | fetch      -- IF
  | decode     -- ID
  | execute    -- EX
  | memory     -- MEM
  | writeback  -- WB
  deriving DecidableEq, Repr, Inhabited

/-- The counter operand of an SC operation (R89 `inst`, R96 format IK): the selector, or the entry of a
pattern table under a packet key (R85). -/
inductive CounterSel where
  | sel
  | lpt (key : Word)
  | gpt (key : Word)
  deriving DecidableEq, Repr

/-- The register operand of an SR operation (R89 `inst`, R96 formats IAO and IA): the global history
register, or the HistoryTable's register of an address. -/
inductive HistorySel where
  | ghr
  | ht (addr : Addr)
  deriving DecidableEq, Repr

/-- The table operand of a PT operation (R96 formats TK and TKO). -/
inductive TableSel where
  | lpt
  | gpt
  deriving DecidableEq, Repr

/-- The thirty-two operations of R97, in the table's order. -/
inductive Instr where
  | scNew (bits : BitVec 8) (init : Word)
  | scInc (c : CounterSel)
  | scDec (c : CounterSel)
  | scValue (c : CounterSel)
  | scPredicts (c : CounterSel)
  | srNew (width : BitVec 8)
  | srPush (r : HistorySel) (o : Outcome)
  | srPattern (r : HistorySel)
  | htRecord (addr : Addr) (o : Outcome)
  | htPatternFor (addr : Addr)
  | ptPredict (t : TableSel) (key : Word)
  | ptTrain (t : TableSel) (key : Word) (actual : Outcome)
  | bpPredict (addr : Addr)
  | bpResolve (addr : Addr) (actual : Outcome) (predicted : Outcome)
  | bpStats
  | bpClearStats
  | bpClearTables
  | fuTryAdmit (ref : Word) (unit : FUnit)
  | fuAdvance
  | fuIsEmpty
  | fuReadyCount
  | fuIsStageFilled (unit : FUnit) (stage : BitVec 8)
  | fuInstrAt (unit : FUnit) (stage : BitVec 8)
  | fuExit
  | fuClear
  | peStep
  | peReset
  | peStart
  | peStatus
  | peCounter (index : BitVec 8)
  | peSlot (slot : SlotName)
  | peReg (r : BitVec 8)
  deriving DecidableEq, Repr

end Sys2Proof
end

