-- ==== Sys2Proof/WellFormed.lean ====
section
/-! DEFINITION. Which operation terms are well formed: the reserved operand values of R99 that a term
can still spell and that no parameter of the block decides. (A stage number or a register index out of
range, and a key that does not fit its table's width, depend on the parameters: the operation itself
refuses them.) -/

namespace Sys2Proof

/-- No 2-bit symbol code of the packet key is the reserved code `11` (R81, R99). -/
def keyCodesOk (key : Word) : Bool :=
  (List.range 32).all fun k => key.extractLsb' (2 * k) 2 != 3#2

/-- The static form of a packet key (R85): with the NOHIST flag `a[63]` set every other bit is zero;
with it clear, bit 62 is zero (a pattern has at most 31 symbols in a packet) and no symbol code is
reserved. -/
def keyOk (key : Word) : Bool :=
  if key.getLsbD 63 then key == 0x8000000000000000#64
  else !key.getLsbD 62 && keyCodesOk key

/-- A counter operand is well formed when its key is (R85, R96 format IK). -/
def CounterSel.ok : CounterSel → Bool
  | .sel => true
  | .lpt key => keyOk key
  | .gpt key => keyOk key

/-- The static operand checks of R99, one per operation. -/
def Instr.wellFormed : Instr → Bool
  | .scNew _ _ => true
  | .scInc c => c.ok
  | .scDec c => c.ok
  | .scValue c => c.ok
  | .scPredicts c => c.ok
  | .srNew _ => true
  | .srPush _ _ => true
  | .srPattern _ => true
  | .htRecord _ _ => true
  | .htPatternFor _ => true
  | .ptPredict _ key => keyOk key
  | .ptTrain _ key _ => keyOk key
  | .bpPredict _ => true
  | .bpResolve _ _ _ => true
  | .bpStats => true
  | .bpClearStats => true
  | .bpClearTables => true
  | .fuTryAdmit _ _ => true
  | .fuAdvance => true
  | .fuIsEmpty => true
  | .fuReadyCount => true
  | .fuIsStageFilled _ _ => true
  | .fuInstrAt _ _ => true
  | .fuExit => true
  | .fuClear => true
  | .peStep => true
  | .peReset => true
  | .peStart => true
  | .peStatus => true
  | .peCounter index => decide (index.toNat ≤ 12)
  | .peSlot _ => true
  | .peReg _ => true

/-- An operation term is well formed (R99). -/
abbrev Instr.WellFormed (i : Instr) : Prop := i.wellFormed = true

end Sys2Proof
end

