-- ==== Sys2Proof/Decode.lean ====
section
/-! DEFINITION. Command packets: their fields (R95), the codes of the small enumerations (R81, R89), the
decoder, total on any 128 bits and rejecting by name (R99), and the encoder written from the same
tables (R96, R97). -/

namespace Sys2Proof

/-- The fields of a packet (R95), most significant first. -/
structure Fields where
  op : BitVec 8
  o1 : BitVec 2
  o2 : BitVec 2
  unit : BitVec 2
  inst : BitVec 2
  n : BitVec 8
  reserved : BitVec 40
  a : Word
  deriving DecidableEq, Repr

/-- The fields of a packet, each at the bits R95 gives it. -/
def splitPacket (w : Packet) : Fields where
  op := w.extractLsb' 120 8
  o1 := w.extractLsb' 118 2
  o2 := w.extractLsb' 116 2
  unit := w.extractLsb' 114 2
  inst := w.extractLsb' 112 2
  n := w.extractLsb' 104 8
  reserved := w.extractLsb' 64 40
  a := w.extractLsb' 0 64

/-- The packet with the given fields (R95). -/
def joinFields (f : Fields) : Packet :=
  f.op ++ f.o1 ++ f.o2 ++ f.unit ++ f.inst ++ f.n ++ f.reserved ++ f.a

/-- Why a packet is refused (R99), by name. -/
inductive DecodeError where
  /-- The `op` value is not one of R97. -/
  | reservedOp
  /-- An Outcome operand has the code `11`. -/
  | reservedOutcome
  /-- The unit operand has the code `11`. -/
  | reservedUnit
  /-- The `inst` value is reserved for this operation. -/
  | reservedInst
  /-- The slot number is 5 to 7 or more. -/
  | reservedSlot
  /-- A field the format does not use, or a bit of [103:64], is not zero. -/
  | unusedNotZero
  /-- The operand term is not well formed: a counter index above 12, or a key with a reserved code. -/
  | illFormed
  deriving DecidableEq, Repr

/-- The code of an outcome (R81). -/
def outcomeCode : Outcome → BitVec 2
  | .notTaken => 0#2
  | .taken => 1#2
  | .unknown => 2#2

/-- The outcome of a code (R81); `11` is reserved. -/
def outcomeOfCode (c : BitVec 2) : Except DecodeError Outcome :=
  if c = 0#2 then .ok .notTaken
  else if c = 1#2 then .ok .taken
  else if c = 2#2 then .ok .unknown
  else .error .reservedOutcome

/-- The code of a functional unit (R89). -/
def unitCode : FUnit → BitVec 2
  | .adder => 0#2
  | .multiplier => 1#2
  | .divider => 2#2

/-- The functional unit of a code (R89); `11` is reserved. -/
def unitOfCode (c : BitVec 2) : Except DecodeError FUnit :=
  if c = 0#2 then .ok .adder
  else if c = 1#2 then .ok .multiplier
  else if c = 2#2 then .ok .divider
  else .error .reservedUnit

/-- The number of a slot (R89), as the packet's `n`. -/
def slotCode : SlotName → BitVec 8
  | .fetch => 0#8
  | .decode => 1#8
  | .execute => 2#8
  | .memory => 3#8
  | .writeback => 4#8

/-- The slot of a number (R89); 5 and above are reserved. -/
def slotOfCode (c : BitVec 8) : Except DecodeError SlotName :=
  if c = 0#8 then .ok .fetch
  else if c = 1#8 then .ok .decode
  else if c = 2#8 then .ok .execute
  else if c = 3#8 then .ok .memory
  else if c = 4#8 then .ok .writeback
  else .error .reservedSlot

/-- The counter operand of an IK packet (R96): `inst` 0 with a zero key is the selector. -/
def counterOfFields (f : Fields) : Except DecodeError CounterSel :=
  if f.inst = 0#2 then (if f.a = 0#64 then .ok .sel else .error .unusedNotZero)
  else if f.inst = 1#2 then .ok (.lpt f.a)
  else if f.inst = 2#2 then .ok (.gpt f.a)
  else .error .reservedInst

/-- The register operand of an IAO or IA packet (R96): `inst` 0 with a zero address is GHR. -/
def historyOfFields (f : Fields) : Except DecodeError HistorySel :=
  if f.inst = 0#2 then (if f.a = 0#64 then .ok .ghr else .error .unusedNotZero)
  else if f.inst = 1#2 then .ok (.ht f.a)
  else .error .reservedInst

/-- The table operand of a TK or TKO packet (R96, R99). -/
def tableOfCode (c : BitVec 2) : Except DecodeError TableSel :=
  if c = 1#2 then .ok .lpt
  else if c = 2#2 then .ok .gpt
  else .error .reservedInst

/-- The operand formats of R96. -/
inductive Format where
  | z | nv | ik | n | iao | ia | ao | a | tk | tko | aoo | iu | us
  deriving DecidableEq, Repr

/-- The fields a format uses (R96), in the order `o1`, `o2`, `unit`, `inst`, `n`, `a`. -/
def Format.uses : Format → Bool × Bool × Bool × Bool × Bool × Bool
  | .z => (false, false, false, false, false, false)
  | .nv => (false, false, false, false, true, true)
  | .ik => (false, false, false, true, false, true)
  | .n => (false, false, false, false, true, false)
  | .iao => (true, false, false, true, false, true)
  | .ia => (false, false, false, true, false, true)
  | .ao => (true, false, false, false, false, true)
  | .a => (false, false, false, false, false, true)
  | .tk => (false, false, false, true, false, true)
  | .tko => (true, false, false, true, false, true)
  | .aoo => (true, true, false, false, false, true)
  | .iu => (false, false, true, false, false, true)
  | .us => (false, false, true, false, true, false)

/-- The unused fields of a format and the reserved bits are zero (R95, R99). -/
def Format.unusedZero (fmt : Format) (f : Fields) : Bool :=
  let (useO1, useO2, useUnit, useInst, useN, useA) := fmt.uses
  (useO1 || f.o1 == 0#2) && (useO2 || f.o2 == 0#2) && (useUnit || f.unit == 0#2)
    && (useInst || f.inst == 0#2) && (useN || f.n == 0#8) && (useA || f.a == 0#64)
    && f.reserved == 0#40

/-- The decoded operands `body`, unless a field the format does not use is not zero (R99). -/
def withFormat (fmt : Format) (f : Fields) (body : Except DecodeError Instr) :
    Except DecodeError Instr :=
  if fmt.unusedZero f then body else .error .unusedNotZero

/-- The operation of the fields (R96, R97), before the well-formedness check. -/
def decodeOperation (f : Fields) : Except DecodeError Instr :=
  match f.op.toNat with
  | 0x10 => withFormat .nv f (.ok (.scNew f.n f.a))
  | 0x11 => withFormat .ik f ((counterOfFields f).map .scInc)
  | 0x12 => withFormat .ik f ((counterOfFields f).map .scDec)
  | 0x13 => withFormat .ik f ((counterOfFields f).map .scValue)
  | 0x14 => withFormat .ik f ((counterOfFields f).map .scPredicts)
  | 0x20 => withFormat .n f (.ok (.srNew f.n))
  | 0x21 => withFormat .iao f (do
      let r ← historyOfFields f
      let o ← outcomeOfCode f.o1
      return .srPush r o)
  | 0x22 => withFormat .ia f ((historyOfFields f).map .srPattern)
  | 0x31 => withFormat .ao f ((outcomeOfCode f.o1).map (.htRecord f.a))
  | 0x32 => withFormat .a f (.ok (.htPatternFor f.a))
  | 0x41 => withFormat .tk f ((tableOfCode f.inst).map (.ptPredict · f.a))
  | 0x42 => withFormat .tko f (do
      let t ← tableOfCode f.inst
      let o ← outcomeOfCode f.o1
      return .ptTrain t f.a o)
  | 0x50 => withFormat .a f (.ok (.bpPredict f.a))
  | 0x51 => withFormat .aoo f (do
      let actual ← outcomeOfCode f.o1
      let predicted ← outcomeOfCode f.o2
      return .bpResolve f.a actual predicted)
  | 0x52 => withFormat .z f (.ok .bpStats)
  | 0x53 => withFormat .z f (.ok .bpClearStats)
  | 0x54 => withFormat .z f (.ok .bpClearTables)
  | 0x60 => withFormat .iu f ((unitOfCode f.unit).map (.fuTryAdmit f.a))
  | 0x61 => withFormat .z f (.ok .fuAdvance)
  | 0x62 => withFormat .z f (.ok .fuIsEmpty)
  | 0x63 => withFormat .z f (.ok .fuReadyCount)
  | 0x64 => withFormat .us f ((unitOfCode f.unit).map (.fuIsStageFilled · f.n))
  | 0x65 => withFormat .us f ((unitOfCode f.unit).map (.fuInstrAt · f.n))
  | 0x66 => withFormat .z f (.ok .fuExit)
  | 0x67 => withFormat .z f (.ok .fuClear)
  | 0x70 => withFormat .z f (.ok .peStep)
  | 0x71 => withFormat .z f (.ok .peReset)
  | 0x72 => withFormat .z f (.ok .peStart)
  | 0x73 => withFormat .z f (.ok .peStatus)
  | 0x74 => withFormat .n f (.ok (.peCounter f.n))
  | 0x75 => withFormat .n f ((slotOfCode f.n).map .peSlot)
  | 0x76 => withFormat .n f (.ok (.peReg f.n))
  | _ => .error .reservedOp

/-- A decoded operation, unless its operands are ill formed (R99). -/
def checkWellFormed (i : Instr) : Except DecodeError Instr :=
  if i.wellFormed then .ok i else .error .illFormed

/-- The decoder: the operation a packet spells, or the name of what is reserved in it (R97, R99). -/
def decode (w : Packet) : Except DecodeError Instr :=
  (decodeOperation (splitPacket w)).bind checkWellFormed

/-- A packet with operation code `op` and every other field zero. -/
def zeroFields (op : BitVec 8) : Fields :=
  { op := op, o1 := 0, o2 := 0, unit := 0, inst := 0, n := 0, reserved := 0, a := 0 }

/-- The `inst` and `a` fields of a counter operand (R89, R96). -/
def counterFields (op : BitVec 8) : CounterSel → Fields
  | .sel => zeroFields op
  | .lpt key => { zeroFields op with inst := 1#2, a := key }
  | .gpt key => { zeroFields op with inst := 2#2, a := key }

/-- The `inst` and `a` fields of a register operand (R89, R96). -/
def historyFields (op : BitVec 8) : HistorySel → Fields
  | .ghr => zeroFields op
  | .ht addr => { zeroFields op with inst := 1#2, a := addr }

/-- The `inst` code of a table operand (R89). -/
def tableCode : TableSel → BitVec 2
  | .lpt => 1#2
  | .gpt => 2#2

/-- The operation code of R97. -/
def Instr.opcode : Instr → BitVec 8
  | .scNew _ _ => 0x10#8
  | .scInc _ => 0x11#8
  | .scDec _ => 0x12#8
  | .scValue _ => 0x13#8
  | .scPredicts _ => 0x14#8
  | .srNew _ => 0x20#8
  | .srPush _ _ => 0x21#8
  | .srPattern _ => 0x22#8
  | .htRecord _ _ => 0x31#8
  | .htPatternFor _ => 0x32#8
  | .ptPredict _ _ => 0x41#8
  | .ptTrain _ _ _ => 0x42#8
  | .bpPredict _ => 0x50#8
  | .bpResolve _ _ _ => 0x51#8
  | .bpStats => 0x52#8
  | .bpClearStats => 0x53#8
  | .bpClearTables => 0x54#8
  | .fuTryAdmit _ _ => 0x60#8
  | .fuAdvance => 0x61#8
  | .fuIsEmpty => 0x62#8
  | .fuReadyCount => 0x63#8
  | .fuIsStageFilled _ _ => 0x64#8
  | .fuInstrAt _ _ => 0x65#8
  | .fuExit => 0x66#8
  | .fuClear => 0x67#8
  | .peStep => 0x70#8
  | .peReset => 0x71#8
  | .peStart => 0x72#8
  | .peStatus => 0x73#8
  | .peCounter _ => 0x74#8
  | .peSlot _ => 0x75#8
  | .peReg _ => 0x76#8

/-- The fields of an operation's packet (R95 to R97). -/
def encodeFields : Instr → Fields
  | .scNew bits init => { zeroFields 0x10#8 with n := bits, a := init }
  | .scInc c => counterFields 0x11#8 c
  | .scDec c => counterFields 0x12#8 c
  | .scValue c => counterFields 0x13#8 c
  | .scPredicts c => counterFields 0x14#8 c
  | .srNew width => { zeroFields 0x20#8 with n := width }
  | .srPush r o => { historyFields 0x21#8 r with o1 := outcomeCode o }
  | .srPattern r => historyFields 0x22#8 r
  | .htRecord addr o => { zeroFields 0x31#8 with a := addr, o1 := outcomeCode o }
  | .htPatternFor addr => { zeroFields 0x32#8 with a := addr }
  | .ptPredict t key => { zeroFields 0x41#8 with inst := tableCode t, a := key }
  | .ptTrain t key actual =>
      { zeroFields 0x42#8 with inst := tableCode t, a := key, o1 := outcomeCode actual }
  | .bpPredict addr => { zeroFields 0x50#8 with a := addr }
  | .bpResolve addr actual predicted =>
      { zeroFields 0x51#8 with a := addr, o1 := outcomeCode actual, o2 := outcomeCode predicted }
  | .bpStats => zeroFields 0x52#8
  | .bpClearStats => zeroFields 0x53#8
  | .bpClearTables => zeroFields 0x54#8
  | .fuTryAdmit ref unit => { zeroFields 0x60#8 with a := ref, unit := unitCode unit }
  | .fuAdvance => zeroFields 0x61#8
  | .fuIsEmpty => zeroFields 0x62#8
  | .fuReadyCount => zeroFields 0x63#8
  | .fuIsStageFilled unit stage => { zeroFields 0x64#8 with unit := unitCode unit, n := stage }
  | .fuInstrAt unit stage => { zeroFields 0x65#8 with unit := unitCode unit, n := stage }
  | .fuExit => zeroFields 0x66#8
  | .fuClear => zeroFields 0x67#8
  | .peStep => zeroFields 0x70#8
  | .peReset => zeroFields 0x71#8
  | .peStart => zeroFields 0x72#8
  | .peStatus => zeroFields 0x73#8
  | .peCounter index => { zeroFields 0x74#8 with n := index }
  | .peSlot slot => { zeroFields 0x75#8 with n := slotCode slot }
  | .peReg r => { zeroFields 0x76#8 with n := r }

/-- The encoder: the packet of an operation (R95 to R97). -/
def encode (i : Instr) : Packet := joinFields (encodeFields i)

/-- The packet whose low `nbits` bits are `w`, every higher bit zero: one 128-bit packet is one word, so
bit 0 of the table's numbering is bit 0 of the packet. -/
def packetOfTableWord (nbits w : Nat) : Packet := BitVec.ofNat 128 (w % 2 ^ nbits)

/-- What the decoder reads from a word of spec/opcode_table.json; `none` where it refuses. -/
def decodeTableWord (nbits w : Nat) : Option Instr :=
  match decode (packetOfTableWord nbits w) with
  | .ok i => some i
  | .error _ => none

end Sys2Proof
end

