-- ==== Sys2Proof/Machine/Parts.lean ====
section
/-! DEFINITION. The parts the state is made of, as plain data: the parameters (R6), the configuration
inputs (R37), instruction references and what a hook may answer (R31, R185 to R191), the predictor
(R21 to R27), the functional-unit tracker (R35), slots (R31), registers (R29), counters (R36), and the
response of an operation (R93, R94, R98). -/

namespace Sys2Proof.Machine

/-- The parameters of the block (R6). Fixed at construction; no operation writes them. -/
structure Params where
  wLocal : Nat
  wGlobal : Nat
  bLocal : Nat
  bGlobal : Nat
  bSel : Nat
  selInit : Nat
  iw : Nat
  pcReset : Addr
  nregs : Nat
  addStages : Nat
  mulStages : Nat
  divLatency : Nat
  clearBpOnReset : Bool
  deriving DecidableEq, Repr

/-- The configuration inputs (R37, R47). The two FP fields are opaque to the block (D45): any natural. -/
structure Cfg where
  syncMasked : Bool
  syncTerminate : Bool
  fpEnables : Nat
  fpRounding : Nat
  deriving DecidableEq, Repr

/-- The key of a PatternTable (R84, R85): the sentinel, or a pattern, newest outcome first. -/
inductive PKey where
  | nohist
  | pattern (h : List Outcome)
  deriving DecidableEq, Repr

/-- The branch predictor's state (R23 to R27). A ShiftRegister is the list of its outcomes, newest
first (R22); a counter is its value, its width being the table's (R21). -/
structure Predictor where
  ht : List (Addr × List Outcome)
  lpt : List (PKey × Nat)
  gpt : List (PKey × Nat)
  ghr : List Outcome
  sel : Nat
  known : Nat
  unknown : Nat
  successful : Nat
  unsuccessful : Nat
  deriving DecidableEq, Repr

/-- What the engine classifies an instruction as (R185). The terminating and the FP-arithmetic sets are
disjoint, so the class is one of three. -/
inductive InstClass where
  | integer
  | terminating
  | fpArith (unit : FUnit)
  deriving DecidableEq, Repr, Inhabited

/-- How an instruction transfers control, for its decode hook (R187): not at all, always, or by a branch.
A jump, by the collaborator's choice, and a branch may use the predictor (R145). -/
inductive Control where
  | sequential
  | jump (usesPredictor : Bool) (target : Addr)
  | branch (usesPredictor : Bool) (target : Addr)
  deriving DecidableEq, Repr, Inhabited

/-- A conforming collaborator's instruction, as data: what the protocols of R145, R187, R189 and R190
need to know of it. -/
structure Conforming where
  sources : List Nat
  dest : Option Nat
  checksWaw : Bool
  control : Control
  breakpoint : Bool
  exception : Option Nat
  value : Word
  deriving DecidableEq, Repr, Inhabited

/-- Where an instruction's hooks come from: the protocols of the spec over given data, or the free
function `Config.hook`, which stands for any other collaborator (R186). -/
inductive Behaviour where
  | conforming (c : Conforming)
  | oracle
  deriving DecidableEq, Repr, Inhabited

/-- What the instruction source holds for an address (R61, R185): the 64-bit reference, the class, and
the hooks' behaviour. -/
structure Descriptor where
  ref : Word
  cls : InstClass
  behaviour : Behaviour
  deriving DecidableEq, Repr, Inhabited

/-- An instruction reference in flight (R31): what `Fetch` returned, the address it was fetched from
(`addr(i)`, R61), and the prediction its fetch hook kept with it (`pred(i)`, R145). -/
structure Inst where
  ref : Word
  addr : Addr
  cls : InstClass
  behaviour : Behaviour
  pred : Outcome
  deriving DecidableEq, Repr, Inhabited

/-- The content of a pipeline slot (R31). -/
inductive Slot where
  | empty
  | bubble
  | instr (i : Inst)
  deriving DecidableEq, Repr

/-- The five integer pipeline slots (R31). -/
structure Slots where
  fetch : Slot
  decode : Slot
  execute : Slot
  memory : Slot
  writeback : Slot
  deriving DecidableEq, Repr

/-- The functional-unit tracker (R35): the stages of the two pipelined units, input stage first, and the
Divider with the advances it still needs. -/
structure Tracker where
  add : List (Option Inst)
  mul : List (Option Inst)
  div : Option Inst
  divRem : Nat
  deriving DecidableEq, Repr

/-- A Register (R29): its value and its write-semaphore. -/
structure Reg where
  value : Word
  sem : Nat
  deriving DecidableEq, Repr, Inhabited

/-- The per-cycle counters (R36). -/
structure Counters where
  cycles : Nat
  instructions : Nat
  raw : Nat
  waw : Nat
  divider : Nat
  funit : Nat
  ex : Nat
  memory : Nat
  deriving DecidableEq, Repr

/-- The status machine's states (R33). -/
inductive Status where
  | ready
  | running
  | stopping
  | halted
  deriving DecidableEq, Repr

/-- The five hooks (R186). -/
inductive HookName where
  | fetch
  | decode
  | execute
  | accessMemory
  | writeback
  deriving DecidableEq, Repr

/-- A hook's result (R91). The exception kind is opaque (N23): any natural. -/
inductive HookResult where
  | ok
  | rawHazard
  | wawHazard
  | redirect (target : Addr)
  | syncException (kind : Nat)
  | breakpoint
  | memoryNotAvailable
  | halt
  deriving DecidableEq, Repr, Inhabited

/-- One change a hook makes to the register file (R186). -/
inductive RegEffect where
  | setValue (r : Nat) (v : Word)
  | setSem (r : Nat) (n : Nat)
  deriving DecidableEq, Repr

/-- One BP.RESOLVE a hook issues (R145). (Its BP.PREDICT reads change nothing.) -/
structure Resolve where
  addr : Addr
  actual : Outcome
  predicted : Outcome
  deriving DecidableEq, Repr

/-- The collaborators' own state (R186): the outcomes the conforming branches will resolve to, and the
external world of the free hooks. -/
structure Collab where
  outcomes : List Bool
  world : Nat
  deriving DecidableEq, Repr, Inhabited

/-- All that a hook can do (R186): its result, its changes of the register file, its BP.RESOLVE
operations, the prediction it keeps with the instruction, and the collaborators' next state. -/
structure HookOut where
  result : HookResult
  regs : List RegEffect
  resolves : List Resolve
  pred : Outcome
  collab : Collab
  deriving DecidableEq, Repr, Inhabited

/-- The kinds of stall (R92) that end a cycle in ID. (The sixth, MEMORY, does not: R196.) -/
inductive Stall where
  | raw
  | waw
  | divider
  | funit
  | ex
  deriving DecidableEq, Repr

/-- Operation status (R94). -/
inductive OpStatus where
  | ok
  | invalidInitializer
  | pipelineNotRunning
  | refused
  deriving DecidableEq, Repr

/-- The result record of PE.STEP (R93). `notRunning` is `error` = 2. -/
structure StepResult where
  notRunning : Bool
  halt : Bool
  breakpoint : Bool
  sync : Option Nat
  syncImmediate : Bool
  masked : Option Nat
  idStall : Option Stall
  memStall : Bool
  redirect : Option Addr
  deriving DecidableEq, Repr

/-- The record PE.STEP starts from (R191): nothing raised. -/
def StepResult.init : StepResult :=
  { notRunning := false, halt := false, breakpoint := false, sync := none, syncImmediate := false,
    masked := none, idStall := none, memStall := false, redirect := none }

/-- The result of an operation (R98), typed; `Codes.lean` gives its 64-bit value where R98 gives one. -/
inductive Result where
  /-- The operation's rule names no result. -/
  | nothing
  /-- SC.NEW: the new counter's width and value (R110). -/
  | counter (bits value : Nat)
  /-- SR.NEW: the new register, newest outcome first (R120). -/
  | register (h : List Outcome)
  /-- A counter value or a count. -/
  | number (n : Nat)
  /-- A boolean. -/
  | flag (b : Bool)
  /-- An Outcome. -/
  | outcome (o : Outcome)
  /-- A pattern key. -/
  | key (k : PKey)
  /-- FU.TRYADMIT: `Admitted`. -/
  | admitted
  /-- FU.TRYADMIT: `Rejected(u)`. -/
  | rejected (u : FUnit)
  /-- `None` or `Some(i)`. -/
  | reference (i : Option Inst)
  /-- BP.STATS. -/
  | stats (known unknown successful unsuccessful : Nat)
  /-- PE.STATUS. -/
  | status (s : Status)
  /-- PE.SLOT. -/
  | slot (c : Slot)
  /-- PE.REG: value and semaphore. -/
  | registerPair (value : Word) (sem : Nat)
  /-- PE.STEP. -/
  | step (r : StepResult)
  deriving DecidableEq, Repr

/-- The answer of an operation (R98). -/
structure Response where
  status : OpStatus
  result : Result
  deriving DecidableEq, Repr

/-- Who issues a packet (R95): the host, or a rule, hook or test inside the block. -/
inductive Origin where
  | host
  | internal
  deriving DecidableEq, Repr

/-- What the outside world can do to the machine between operations (R12, R69): issue a packet, change
the configuration inputs, change what the instruction source holds at an address. -/
inductive Input where
  | packet (origin : Origin) (w : Packet)
  | configure (c : Cfg)
  | store (addr : Addr) (d : Descriptor)
  deriving DecidableEq, Repr

end Sys2Proof.Machine
end

