-- ==== Sys2Proof/Config.lean ====
section
/-! DEFINITION. What an implementation fixes: the parameter set of the reset state (R6), which parameter
sets are legal (R40, R237), and the free values of the external collaborators (R5, R61, R186): opaque,
so that nothing can be proved of a particular one. -/

namespace Sys2Proof

/-- A legal parameter set (R6, R40, R237): every width and stage count positive, the selector's initial
value within its width, and a register 0. With any other, construction fails. -/
def Machine.Params.legal (p : Machine.Params) : Bool :=
  decide (1 ≤ p.wLocal) && decide (1 ≤ p.wGlobal) && decide (1 ≤ p.bLocal) && decide (1 ≤ p.bGlobal)
    && decide (1 ≤ p.bSel) && decide (p.selInit ≤ 2 ^ p.bSel - 1) && decide (1 ≤ p.nregs)
    && decide (1 ≤ p.addStages) && decide (1 ≤ p.mulStages) && decide (1 ≤ p.divLatency)

/-- The parameter set of `State.reset`: the defaults of R6, and for the OPEN parameters the values of
`95_test_vectors.md` section 3.1. DESIGN CHOICE, unsafe: a claim that names `State.reset` depends on them
(log 5, 6). -/
def Config.reference : Machine.Params :=
  { wLocal := 2, wGlobal := 2, bLocal := 2, bGlobal := 2, bSel := 2, selInit := 0, iw := 4, pcReset := 0,
    nregs := 32, addStages := 4, mulStages := 7, divLatency := 24, clearBpOnReset := false }

/-- The configuration inputs of `State.reset`. DESIGN CHOICE, unsafe: the spec gives none (log 7). -/
def Config.referenceCfg : Machine.Cfg :=
  { syncMasked := false, syncTerminate := false, fpEnables := 0, fpRounding := 0 }

/-- FREE VALUE. What the instruction source holds at an address that nothing lists (R61, U16); it may
depend on the external world (log 9). -/
opaque Config.fetchElsewhere : Addr → Nat → Machine.Descriptor

/-- FREE VALUE. The metadata of a reference that a packet names and nothing lists (R185; log 17). -/
opaque Config.instrOfRef : Word → Machine.Inst

/-- FREE VALUE. The hooks of a collaborator of which only the contract is known (R186): a function of the
hook, the instruction, the register file, the configuration sampled this cycle, the predictor and the
external world, of which the instruction store is a part (R5; log 10). -/
opaque Config.hook : Machine.HookName → Machine.Inst → List Machine.Reg → Machine.Cfg →
  Machine.Predictor → Machine.Collab → List (Addr × Machine.Descriptor) → Machine.HookOut

/-- FREE VALUE. The outcome of a conforming branch when no outcome is listed (R145, U17): true is taken
(log 11). -/
opaque Config.branchOutcome : Nat → Bool

end Sys2Proof
end

