-- ==== Sys2Proof/Machine/State.lean ====
section
/-! DEFINITION. The state of the machine (R20), the fault and refusal reasons, construction (R40, R41)
and reset. -/

namespace Sys2Proof.Machine

/-- Why the machine stops with a fault. -/
inductive Fault where
  /-- Raised by `step` (Step.lean) on a state whose parameter set is not legal (R237, U6): construction
  fails with `InvalidInitializer` and "there is no block to speak of". Safe: no constructed block has
  such a parameter set, so no behaviour of the hardware is cut off. -/
  | invalidInitializer
  deriving DecidableEq, Repr

/-- Why an operation has no meaning in the model. -/
inductive Refusal where
  /-- Raised by an arm of `exec` whose operation has no meaning yet. Safe: it stops where the hardware
  goes on. -/
  | notModelled (mnemonic : String)
  deriving DecidableEq, Repr

/-- The state: the block's state (R20), then the model's own inputs, outputs and collaborator state. -/
structure State where
  /-- The parameters (R6). No operation writes them. -/
  params : Params
  /-- HT, LPT, GPT, GHR, SEL, STAT.* (R23 to R27). -/
  pred : Predictor
  /-- ADD, MUL, DIV, DIV_REM (R35). -/
  fu : Tracker
  /-- slot[IF] .. slot[WB] (R31). -/
  slots : Slots
  /-- The program counter (R30). -/
  pc : Addr
  /-- READY, RUNNING, STOPPING or HALTED (R33). -/
  status : Status
  /-- TERM, the terminating instruction whose retirement is deferred (R34). -/
  term : Option Inst
  /-- The register file x[0..NREGS-1] with its semaphores (R29). -/
  regs : List Reg
  /-- CNT.* (R36). -/
  cnt : Counters
  /-- MODEL's own: an immediate termination happened and no PE.RESET since (R240, D27; log 13). -/
  aborted : Bool
  /-- MODEL's own input: the configuration inputs (R37; log 7). -/
  cfg : Cfg
  /-- MODEL's own input: what the instruction source lists, addresses strictly rising (R61; log 9). No
  hook writes it (log 33). -/
  source : List (Addr × Descriptor)
  /-- MODEL's own: the collaborators' state (R186; log 10, 11). -/
  collab : Collab
  /-- MODEL's own input: what the outside world does next, oldest first (R12; log 1). -/
  inputs : List Input
  /-- MODEL's own output: the answer of the last operation (R98; log 2). -/
  response : Response
  /-- MODEL's own output: the `onFetch` notifications, newest first (R71; log 2). -/
  trace : List Addr
  deriving DecidableEq, Repr

/-- The predictor at construction (R40). -/
def Predictor.powerOn (p : Params) : Predictor :=
  { ht := [], lpt := [], gpt := [], ghr := List.replicate p.wGlobal .unknown, sel := p.selInit,
    known := 0, unknown := 0, successful := 0, unsuccessful := 0 }

/-- The empty tracker (R41, R176). -/
def Tracker.cleared (p : Params) : Tracker :=
  { add := List.replicate p.addStages none, mul := List.replicate p.mulStages none, div := none,
    divRem := 0 }

/-- All slots `Empty` (R41). -/
def Slots.cleared : Slots :=
  { fetch := .empty, decode := .empty, execute := .empty, memory := .empty, writeback := .empty }

/-- All counters 0 (R41). -/
def Counters.cleared : Counters :=
  { cycles := 0, instructions := 0, raw := 0, waw := 0, divider := 0, funit := 0, ex := 0, memory := 0 }

/-- Every register and semaphore 0 (R41). -/
def clearedRegs (p : Params) : List Reg := List.replicate p.nregs { value := 0, sem := 0 }

/-- The block as constructed with the parameters `p` (R40, R41), with nothing pending outside it. DESIGN
CHOICE: the external world is 0, which the spec leaves to the platform (R262; log 32); the other fields
that are the model's own are logs 1, 2, 7, 9, 11 and 13. -/
def State.powerOn (p : Params) : State :=
  { params := p
    pred := Predictor.powerOn p
    fu := Tracker.cleared p
    slots := Slots.cleared
    pc := p.pcReset
    status := .ready
    term := none
    regs := clearedRegs p
    cnt := Counters.cleared
    aborted := false
    cfg := Config.referenceCfg
    source := []
    collab := { outcomes := [], world := 0 }
    inputs := []
    response := { status := .ok, result := .nothing }
    trace := [] }

/-- Construction (R40, R237): it fails with `InvalidInitializer` on a parameter set that is not legal. -/
def State.construct (p : Params) : Except OpStatus State :=
  if p.legal then .ok (State.powerOn p) else .error .invalidInitializer

/-- The machine right after reset (R42, R261): the block as constructed with `Config.reference`. -/
def State.reset : State := State.powerOn Config.reference

end Sys2Proof.Machine
end

