-- ==== Sys2Proof/Machine/Flags.lean ====
section
/-! DEFINITION. Derived readings. The block has no condition codes or flags of its own (R38); what its
rules test is computed here from the state: a counter's prediction (R21, R114), whether a pattern is
known and its value and seed (R84, R87), the slot predicates (R32), the class of an instruction (R185),
and the readiness of the functional units (R166, R171, R172). -/

namespace Sys2Proof.Machine

/-- The largest value of a counter of width `b` (R21). -/
def counterMax (b : Nat) : Nat := 2 ^ b - 1

/-- The threshold of a counter of width `b` (R21). -/
def counterThreshold (b : Nat) : Nat := 2 ^ (b - 1) - 1

/-- SC.PREDICTS of a counter of width `b` and value `v` (R114). -/
def counterPredicts (b v : Nat) : Bool := decide (v > counterThreshold b)

/-- A counter's prediction as an outcome: a pattern-table counter never reads `Unknown` (R114). -/
def counterOutcome (b v : Nat) : Outcome := if counterPredicts b v then .taken else .notTaken

/-- SEL reads `SelectGlobal` (R26, R114). -/
def selectsGlobal (p : Params) (b : Predictor) : Bool := counterPredicts p.bSel b.sel

/-- The pattern contains an unknown, that is an 'X' (R84). -/
def hasUnknown (h : List Outcome) : Bool := h.any (· == .unknown)

/-- The binary value of a pattern, newest outcome most significant (R84). -/
def patternValue (h : List Outcome) : Nat :=
  h.foldl (fun acc o => 2 * acc + (if o = .taken then 1 else 0)) 0

/-- The seed of a new counter of width `b` for a pattern key (R87): the low-order `b` bits of the pattern
when all its outcomes are known, else 0; the sentinel contains an unknown. -/
def seedOf (b : Nat) : PKey → Nat
  | .nohist => 0
  | .pattern h => if hasUnknown h then 0 else patternValue h % 2 ^ b

/-- `occupied(s)` (R32). -/
def Slot.occupied : Slot → Bool
  | .empty => false
  | .bubble => true
  | .instr _ => true

/-- `real(s)` (R32). -/
def Slot.real : Slot → Bool
  | .empty => false
  | .bubble => false
  | .instr _ => true

/-- `is_terminating(i)` (R185). -/
def Inst.isTerminating (i : Inst) : Bool :=
  match i.cls with
  | .terminating => true
  | .integer => false
  | .fpArith _ => false

/-- `fu_of(i)` when `is_fp_arith(i)` (R185). -/
def Inst.fpUnit (i : Inst) : Option FUnit :=
  match i.cls with
  | .fpArith u => some u
  | .integer => none
  | .terminating => none

/-- The content of a pipelined unit's input stage (R165). -/
def inputStage (l : List (Option Inst)) : Option Inst := l.head?.join

/-- The content of a pipelined unit's final stage (R165). -/
def finalStage (l : List (Option Inst)) : Option Inst := l.getLast?.join

/-- `can_admit(u)` (R166). -/
def canAdmit (t : Tracker) : FUnit → Bool
  | .adder => (inputStage t.add).isNone
  | .multiplier => (inputStage t.mul).isNone
  | .divider => t.div.isNone

/-- `ready(u)` (R166). -/
def unitReady (t : Tracker) : FUnit → Bool
  | .adder => (finalStage t.add).isSome
  | .multiplier => (finalStage t.mul).isSome
  | .divider => t.div.isSome && t.divRem == 0

/-- FU.ISEMPTY (R171). -/
def trackerEmpty (t : Tracker) : Bool := t.add.all Option.isNone && t.mul.all Option.isNone && t.div.isNone

/-- FU.READYCOUNT (R172). -/
def readyCount (t : Tracker) : Nat :=
  (unitReady t .divider).toNat + (unitReady t .multiplier).toNat + (unitReady t .adder).toNat

/-- The stages of a unit as a list, input stage first; the Divider has one (R165). -/
def unitStages (t : Tracker) : FUnit → List (Option Inst)
  | .adder => t.add
  | .multiplier => t.mul
  | .divider => [t.div]

/-- The content of a named slot (R31). -/
def slotOf (s : Slots) : SlotName → Slot
  | .fetch => s.fetch
  | .decode => s.decode
  | .execute => s.execute
  | .memory => s.memory
  | .writeback => s.writeback

/-- PE.STEP is callable: RUNNING or STOPPING (R191). -/
def Status.steps : Status → Bool
  | .ready => false
  | .running => true
  | .stopping => true
  | .halted => false

end Sys2Proof.Machine
end

