-- ==== Sys2Proof/Machine/Ops.lean ====
section
/-! DEFINITION. The named operations over the state that the operations of the block share: the
associative tables, counters and histories, the predictor, the tracker, the register file, the hooks and
their contracts, raised conditions, fetching, and the answer of an operation. -/

namespace Sys2Proof.Machine

/-! ### Associative tables (R23, R24, R70): exact partial maps in one canonical form, keys of strictly
rising rank -/

/-- The value under a key, if the key is seen (R23, R24). -/
def tableFind {κ ν : Type} [DecidableEq κ] (t : List (κ × ν)) (k : κ) : Option ν :=
  match t with
  | [] => none
  | e :: rest => if e.1 = k then some e.2 else tableFind rest k

/-- `m[k] <- v` (R9): defines or overwrites one entry, keeping the keys in rising rank. -/
def tableInsert {κ ν : Type} [DecidableEq κ] (rank : κ → Nat) (t : List (κ × ν)) (k : κ) (v : ν) :
    List (κ × ν) :=
  match t with
  | [] => [(k, v)]
  | e :: rest =>
    if e.1 = k then (k, v) :: rest
    else if rank k < rank e.1 then (k, v) :: e :: rest
    else e :: tableInsert rank rest k v

/-- The canonical form: keys of strictly rising rank. -/
abbrev TableWf {κ ν : Type} (rank : κ → Nat) (t : List (κ × ν)) : Prop :=
  t.Pairwise fun a b => rank a.1 < rank b.1

/-- The rank of an address key. -/
def addrRank (a : Addr) : Nat := a.toNat

/-- The rank of a pattern key: 0 for the sentinel, else the symbol codes of R84 behind a leading 1. -/
def keyRank : PKey → Nat
  | .nohist => 0
  | .pattern h => h.foldl (fun acc o => 4 * acc + (outcomeCode o).toNat) 1

/-! ### Saturating counters (R110 to R112) -/

/-- SC.INC's new value (R111). -/
def counterInc (b v : Nat) : Nat := min (v + 1) (counterMax b)

/-- SC.DEC's new value (R112). -/
def counterDec (v : Nat) : Nat := v - 1

/-- SC.NEW (R110): fails when the width is below 1 or the value does not fit. -/
def counterNew (bits init : Nat) : Option Nat :=
  if bits < 1 ∨ init > 2 ^ bits - 1 then none else some init

/-! ### Histories (R120 to R126) -/

/-- SR.NEW's register (R120): all outcomes Unknown. -/
def historyNew (w : Nat) : List Outcome := List.replicate w .unknown

/-- SR.PUSH (R121): the outcome at the front, the oldest dropped. -/
def historyPush (h : List Outcome) (o : Outcome) : List Outcome := (o :: h).take h.length

/-- HT.RECORD (R125). -/
def htRecord (p : Params) (b : Predictor) (addr : Addr) (o : Outcome) : Predictor :=
  let h := (tableFind b.ht addr).getD (historyNew p.wLocal)
  { b with ht := tableInsert addrRank b.ht addr (historyPush h o) }

/-- HT.PATTERNFOR (R126). -/
def htPatternFor (b : Predictor) (addr : Addr) : PKey :=
  match tableFind b.ht addr with
  | some h => .pattern h
  | none => .nohist

/-! ### Pattern tables (R135, R136) -/

/-- PT.PREDICT on a table of counter width `bits` (R135). -/
def ptPredict (bits : Nat) (t : List (PKey × Nat)) (k : PKey) : Outcome :=
  match tableFind t k with
  | none => .unknown
  | some v => counterOutcome bits v

/-- The move of PT.TRAIN (R136): toward the predicting extreme when the prediction was right, away from
it when it was wrong. -/
def trainCounter (bits v : Nat) (actual : Outcome) : Nat :=
  let predictedNow := counterOutcome bits v
  if predictedNow = actual then
    (if predictedNow = .taken then counterInc bits v else counterDec v)
  else
    (if predictedNow = .taken then counterDec v else counterInc bits v)

/-- PT.TRAIN on a table of counter width `bits` (R136): an unseen pattern is created from its seed. -/
def ptTrain (bits : Nat) (t : List (PKey × Nat)) (k : PKey) (actual : Outcome) : List (PKey × Nat) :=
  let v := (tableFind t k).getD (seedOf bits k)
  tableInsert keyRank t k (trainCounter bits v actual)

/-! ### The branch predictor (R146 to R155) -/

/-- BP.PREDICT (R146): only the side the selector chooses is consulted. -/
def bpPredict (p : Params) (b : Predictor) (addr : Addr) : Outcome :=
  if selectsGlobal p b then ptPredict p.bGlobal b.gpt (.pattern b.ghr)
  else ptPredict p.bLocal b.lpt (htPatternFor b addr)

/-- The statistics update of BP.RESOLVE (R150). -/
def statsUpdate (b : Predictor) (actual predicted : Outcome) : Predictor :=
  if predicted = .unknown then { b with unknown := b.unknown + 1 }
  else if predicted = actual then { b with known := b.known + 1, successful := b.successful + 1 }
  else { b with known := b.known + 1, unsuccessful := b.unsuccessful + 1 }

/-- The selector update of BP.RESOLVE (R151): a correct prediction moves SEL toward the predictor that
made it, any other toward the other predictor. -/
def selectorUpdate (bSel sel : Nat) (usedGlobal correct : Bool) : Nat :=
  if usedGlobal then (if correct then counterInc bSel sel else counterDec sel)
  else (if correct then counterDec sel else counterInc bSel sel)

/-- The named variant of the selector update that the spec does not adopt (R152, U24, C1): the literal
reading, in which the direction depends only on the predictor used. No operation uses it (log 19). -/
def selectorUpdateLiteral (bSel sel : Nat) (usedGlobal : Bool) : Nat :=
  if usedGlobal then counterDec sel else counterInc bSel sel

/-- BP.RESOLVE (R147): the patterns and the selector are read before anything is written. -/
def bpResolve (p : Params) (b : Predictor) (addr : Addr) (actual predicted : Outcome) : Predictor :=
  let lp := htPatternFor b addr
  let gp := PKey.pattern b.ghr
  let usedGlobal := selectsGlobal p b
  let b1 := htRecord p b addr actual
  let b2 := { b1 with ghr := historyPush b1.ghr actual }
  let b3 := { b2 with lpt := ptTrain p.bLocal b2.lpt lp actual }
  let b4 := { b3 with gpt := ptTrain p.bGlobal b3.gpt gp actual }
  let b5 := statsUpdate b4 actual predicted
  { b5 with sel := selectorUpdate p.bSel b5.sel usedGlobal (decide (predicted = actual)) }

/-- BP.CLEARSTATS (R154). -/
def bpClearStats (b : Predictor) : Predictor :=
  { b with known := 0, unknown := 0, successful := 0, unsuccessful := 0 }

/-- BP.CLEARTABLES (R155): the tables, GHR and SEL at their power-on values, the statistics kept. -/
def bpClearTables (p : Params) (b : Predictor) : Predictor :=
  { b with ht := [], lpt := [], gpt := [], ghr := historyNew p.wGlobal, sel := p.selInit }

/-! ### The functional-unit tracker (R167 to R176) -/

/-- A pipelined unit with `i` in its input stage (R167). -/
def setInput (l : List (Option Inst)) (i : Inst) : List (Option Inst) := l.set 0 (some i)

/-- FU.TRYADMIT's effect once `can_admit(u)` holds (R167). -/
def fuAdmit (p : Params) (t : Tracker) (i : Inst) : FUnit → Tracker
  | .adder => { t with add := setInput t.add i }
  | .multiplier => { t with mul := setInput t.mul i }
  | .divider => { t with div := some i, divRem := p.divLatency - 1 }

/-- FU.ADVANCE of one pipelined unit (R169): held as a whole while its final stage is filled. -/
def advanceStages (l : List (Option Inst)) : List (Option Inst) :=
  if (finalStage l).isNone then (none :: l).take l.length else l

/-- FU.ADVANCE (R169). -/
def fuAdvance (t : Tracker) : Tracker :=
  { add := advanceStages t.add
    mul := advanceStages t.mul
    div := t.div
    divRem := if t.div.isSome && decide (t.divRem > 0) then t.divRem - 1 else t.divRem }

/-- The unit FU.EXIT takes from: Divider, then Multiplier, then Adder (R175). -/
def exitUnit (t : Tracker) : Option FUnit :=
  if unitReady t .divider then some .divider
  else if unitReady t .multiplier then some .multiplier
  else if unitReady t .adder then some .adder
  else none

/-- FU.PEEK (R175): the instruction FU.EXIT would return. -/
def fuPeek (t : Tracker) : Option Inst :=
  match exitUnit t with
  | some .divider => t.div
  | some .multiplier => finalStage t.mul
  | some .adder => finalStage t.add
  | none => none

/-- A pipelined unit with its final stage emptied (R175). -/
def clearFinal (l : List (Option Inst)) : List (Option Inst) := l.set (l.length - 1) none

/-- The tracker after FU.EXIT (R175). -/
def fuExit (t : Tracker) : Tracker :=
  match exitUnit t with
  | some .divider => { t with div := none, divRem := 0 }
  | some .multiplier => { t with mul := clearFinal t.mul }
  | some .adder => { t with add := clearFinal t.add }
  | none => t

/-! ### The register file (R29) -/

/-- The value of register `r`: register 0 reads 0 always (R29). -/
def regValue (regs : List Reg) (r : Nat) : Word :=
  if r = 0 then 0 else (regs[r]?.map Reg.value).getD 0

/-- The write-semaphore of register `r` (R29). -/
def regSem (regs : List Reg) (r : Nat) : Nat := (regs[r]?.map Reg.sem).getD 0

/-- `x[r] <- v` (R9, R29): a write to register 0 is a no-op. -/
def setRegValue (regs : List Reg) (r : Nat) (v : Word) : List Reg :=
  if r = 0 then regs else regs.modify r fun x => { x with value := v }

/-- `sem[r] <- n` (R29). -/
def setRegSem (regs : List Reg) (r : Nat) (n : Nat) : List Reg :=
  regs.modify r fun x => { x with sem := n }

/-- One change a hook makes to the register file (R186). -/
def applyRegEffect (regs : List Reg) : RegEffect → List Reg
  | .setValue r v => setRegValue regs r v
  | .setSem r n => setRegSem regs r n

/-! ### Answers and refusals (R94, R98) -/

/-- The operation's answer (R98). -/
def State.answer (s : State) (st : OpStatus) (r : Result) : State :=
  { s with response := { status := st, result := r } }

/-- `Refused` (R94): the block's state is unchanged. DESIGN CHOICE: the answer carries no result, that is
the value 0, and a refused PE.STEP no record; the spec states neither (log 31). -/
def State.refuse (s : State) : State := s.answer .refused .nothing

/-- An operation that completes with status `Ok` (R94). -/
def State.done (s : State) (r : Result) : State := s.answer .ok r

/-! ### Fetching an instruction of the program (R61, R71, R205) -/

/-- `Fetch(addr)` (R61): the instruction the source lists at the address, or the free value where nothing
is listed; the reference carries the address. -/
def fetchInst (s : State) (addr : Addr) : Inst :=
  let d := (tableFind s.source addr).getD (Config.fetchElsewhere addr s.collab.world)
  { ref := d.ref, addr := addr, cls := d.cls, behaviour := d.behaviour, pred := .unknown }

/-- `slot[IF] <- Instr(Fetch(pc))`, `onFetch(pc)`, `pc <- pc + IW` modulo 2^64 (R203, R205). -/
def fetchNext (s : State) : State :=
  { s with
    slots := { s.slots with fetch := .instr (fetchInst s s.pc) }
    trace := s.pc :: s.trace
    pc := s.pc + BitVec.ofNat 64 s.params.iw }

/-! ### The hooks (R185 to R190) -/

/-- A hook that answers `res` and changes nothing. -/
def hookOnly (i : Inst) (collab : Collab) (res : HookResult) : HookOut :=
  { result := res, regs := [], resolves := [], pred := i.pred, collab := collab }

/-- The semaphore a conforming decode hook raises (R187). -/
def raiseSem (regs : List Reg) (c : Conforming) : List RegEffect :=
  match c.dest with
  | none => []
  | some d => [.setSem d (regSem regs d + 1)]

/-- The outcome a conforming branch resolves to (R145, U17): the next listed one, or the free value. -/
def nextOutcome (collab : Collab) : Bool × Collab :=
  match collab.outcomes with
  | taken :: rest => (taken, { collab with outcomes := rest })
  | [] => (Config.branchOutcome collab.world, { collab with world := collab.world + 1 })

/-- The BP.RESOLVE of an instruction that uses the predictor (R145). -/
def resolveOf (usesPredictor : Bool) (i : Inst) (actual : Outcome) : List Resolve :=
  if usesPredictor then [{ addr := i.addr, actual := actual, predicted := i.pred }] else []

/-- The decode hook of a conforming instruction (R187, R145). -/
def conformingDecode (i : Inst) (c : Conforming) (s : State) : HookOut :=
  if c.sources.any fun r => decide (regSem s.regs r > 0) then hookOnly i s.collab .rawHazard
  else if c.checksWaw && (c.dest.any fun d => decide (regSem s.regs d > 0)) then
    hookOnly i s.collab .wawHazard
  else
    let out := { hookOnly i s.collab .ok with regs := raiseSem s.regs c }
    match c.control with
    | .sequential => out
    | .jump usesPredictor target =>
      { out with
        result := .redirect target
        resolves := resolveOf usesPredictor i .taken }
    | .branch usesPredictor target =>
      let (taken, collab) := nextOutcome s.collab
      let actual : Outcome := if taken then .taken else .notTaken
      { out with
        result := if taken then .redirect target else .ok
        resolves := resolveOf usesPredictor i actual
        collab := collab }

/-- The writeback hook of a conforming instruction (R189): it lowers the semaphore its decode raised and
writes the destination. -/
def conformingWriteback (i : Inst) (c : Conforming) (s : State) : HookOut :=
  match c.dest with
  | none => hookOnly i s.collab .ok
  | some d =>
    { hookOnly i s.collab .ok with
      regs := [.setSem d (regSem s.regs d - 1), .setValue d c.value] }

/-- A conforming instruction uses the predictor (R145): a branch or a jump may. -/
def Control.predicts : Control → Bool
  | .sequential => false
  | .jump usesPredictor _ => usesPredictor
  | .branch usesPredictor _ => usesPredictor

/-- The fetch hook of a conforming instruction (R190, R145): one that uses the predictor asks for a
prediction and keeps it; a breakpoint is reported. -/
def conformingFetch (i : Inst) (c : Conforming) (s : State) : HookOut :=
  let out := hookOnly i s.collab (if c.breakpoint then .breakpoint else .ok)
  if c.control.predicts then { out with pred := bpPredict s.params s.pred i.addr } else out

/-- The hooks of a conforming instruction (R187 to R190). -/
def conformingHook (h : HookName) (i : Inst) (c : Conforming) (s : State) : HookOut :=
  match h with
  | .fetch => conformingFetch i c s
  | .decode => conformingDecode i c s
  | .execute =>
    hookOnly i s.collab (match c.exception with | some kind => .syncException kind | none => .ok)
  | .accessMemory => hookOnly i s.collab .ok
  | .writeback => conformingWriteback i c s

/-- Calls a hook of an instruction (R186). The external world that a hook may read is the collaborators' own
state and the instruction store (R5 b; log 10). -/
def callHook (h : HookName) (i : Inst) (s : State) : HookOut :=
  match i.behaviour with
  | .conforming c => conformingHook h i c s
  | .oracle => Config.hook h i s.regs s.cfg s.pred s.collab s.source

/-- A BP.RESOLVE that a hook issues (R145); with an unknown actual outcome it is refused and changes
nothing (R148). -/
def applyResolve (p : Params) (b : Predictor) (r : Resolve) : Predictor :=
  if r.actual = .unknown then b else bpResolve p b r.addr r.actual r.predicted

/-- The state after a hook: it changes only the register file, the predictor and the collaborators' own
state (R186). DESIGN CHOICE: so no hook stores into the instruction source, what R69 leaves outside the
block (log 33). -/
def applyHook (s : State) (out : HookOut) : State :=
  { s with
    regs := out.regs.foldl applyRegEffect s.regs
    pred := out.resolves.foldl (applyResolve s.params) s.pred
    collab := out.collab }

/-- A hook whose only allowed result is `Ok` (R189): the state after it, or nothing when it breaks its
contract (R243). -/
def runOkHook (h : HookName) (i : Inst) (s : State) : Option State :=
  let out := callHook h i s
  match out.result with
  | .ok => some (applyHook s out)
  | .rawHazard | .wawHazard | .redirect _ | .syncException _ | .breakpoint | .memoryNotAvailable
  | .halt => none

/-- What the decode hook tells the engine (R187). -/
inductive DecodeAnswer where
  | proceed
  | redirect (target : Addr)
  | stall (k : Stall)
  deriving DecidableEq, Repr

/-- A hazard result leaves the register file and the predictor as they were (R187); otherwise the hook
breaks its contract (U11). -/
def hazardAnswer (s : State) (out : HookOut) (k : Stall) : Option (DecodeAnswer × State) :=
  let t := applyHook s out
  if t.regs = s.regs ∧ t.pred = s.pred then some (.stall k, t) else none

/-- The decode hook (R187): its answer and the state after it, or nothing when it breaks its contract. -/
def runDecodeHook (i : Inst) (s : State) : Option (DecodeAnswer × State) :=
  let out := callHook .decode i s
  match out.result with
  | .ok => some (.proceed, applyHook s out)
  | .redirect target => some (.redirect target, applyHook s out)
  | .rawHazard => hazardAnswer s out .raw
  | .wawHazard => hazardAnswer s out .waw
  | .syncException _ | .breakpoint | .memoryNotAvailable | .halt => none

/-- The execute hook (R188): the exception kind it reports, if any, and the state after it, or nothing
when it breaks its contract. -/
def runExecuteHook (i : Inst) (s : State) : Option (Option Nat × State) :=
  let out := callHook .execute i s
  match out.result with
  | .ok => some (none, applyHook s out)
  | .syncException kind => some (some kind, applyHook s out)
  | .rawHazard | .wawHazard | .redirect _ | .breakpoint | .memoryNotAvailable | .halt => none

/-- The fetch hook (R190): whether it signals a breakpoint, the instruction with the prediction it keeps,
and the state after it, or nothing when it breaks its contract. -/
def runFetchHook (i : Inst) (s : State) : Option (Bool × Inst × State) :=
  let out := callHook .fetch i s
  match out.result with
  | .ok => some (false, { i with pred := out.pred }, applyHook s out)
  | .breakpoint => some (true, { i with pred := out.pred }, applyHook s out)
  | .rawHazard | .wawHazard | .redirect _ | .syncException _ | .memoryNotAvailable | .halt => none

/-! ### Raised conditions inside a step (R236) -/

/-- A step in progress: the state so far and the result record so far (R191). -/
structure Cycle where
  s : State
  res : StepResult
  deriving DecidableEq, Repr

/-- Where a stage leaves the step: it goes on to the next stage, it ends here (R191), or a hook broke its
contract and the whole step is refused (R243). -/
inductive Flow where
  | go (c : Cycle)
  | ends (c : Cycle)
  | breach
  deriving DecidableEq, Repr

/-- The next stage, if the step goes on. -/
def Flow.andThen (f : Flow) (k : Cycle → Flow) : Flow :=
  match f with
  | .go c => k c
  | .ends c => .ends c
  | .breach => .breach

/-- Taking a synchronous exception (R197, R240): Masked, Deferred or Immediate by the two configuration
booleans. No handler is entered and nothing is saved (R245); after an Immediate one PE.STEP is refused
until PE.RESET. There is no return (R246): after Masked and Deferred the step goes on as if `Ok`. -/
def raiseSync (c : Cycle) : Option Nat → Flow
  | none => .go c
  | some kind =>
    if c.s.cfg.syncMasked then .go { c with res := { c.res with masked := some kind } }
    else if !c.s.cfg.syncTerminate then .go { c with res := { c.res with sync := some kind } }
    else .ends { s := { c.s with aborted := true },
                 res := { c.res with sync := some kind, syncImmediate := true } }

/-- The counter of a stall in ID (R202). -/
def countStall (n : Counters) : Stall → Counters
  | .raw => { n with raw := n.raw + 1 }
  | .waw => { n with waw := n.waw + 1 }
  | .divider => { n with divider := n.divider + 1 }
  | .funit => { n with funit := n.funit + 1 }
  | .ex => { n with ex := n.ex + 1 }

/-- A stall in ID ends the cycle (R202): its counter rises, and a bubble enters `slot[EX]` when that is
`Empty`. -/
def stallCycle (c : Cycle) (k : Stall) : Flow :=
  let ex := if c.s.slots.execute = .empty then .bubble else c.s.slots.execute
  .ends { s := { c.s with
                 cnt := countStall c.s.cnt k
                 slots := { c.s.slots with execute := ex } }
          res := { c.res with idStall := some k } }

/-- A control-flow redirect ends the cycle (R203): ID to a bubble, `pc` to the target, and a re-fetch
while RUNNING. -/
def redirectCycle (c : Cycle) (target : Addr) : Flow :=
  let s := { c.s with slots := { c.s.slots with decode := .bubble }, pc := target }
  .ends { s := if s.status = .running then fetchNext s else s
          res := { c.res with redirect := some target } }

/-! ### The host's inputs (R12, R69, R95, R99) -/

/-- The operations the host may issue (R12, R95, R145 and the header of `44_fu_pipeline.md`); all others
are issued only from inside the block. -/
def hostMayIssue : Instr → Bool
  | .scNew _ _ => false
  | .scInc _ => false
  | .scDec _ => false
  | .scValue _ => false
  | .scPredicts _ => false
  | .srNew _ => false
  | .srPush _ _ => false
  | .srPattern _ => false
  | .htRecord _ _ => false
  | .htPatternFor _ => false
  | .ptPredict _ _ => false
  | .ptTrain _ _ _ => false
  | .bpPredict _ => false
  | .bpResolve _ _ _ => false
  | .bpStats => true
  | .bpClearStats => false
  | .bpClearTables => false
  | .fuTryAdmit _ _ => false
  | .fuAdvance => false
  | .fuIsEmpty => true
  | .fuReadyCount => true
  | .fuIsStageFilled _ _ => true
  | .fuInstrAt _ _ => true
  | .fuExit => false
  | .fuClear => false
  | .peStep => true
  | .peReset => true
  | .peStart => true
  | .peStatus => true
  | .peCounter _ => true
  | .peSlot _ => true
  | .peReg _ => true

/-- The operation a packet issues, if it is one the decoder gives and its origin may issue (R95, R99). -/
def admitPacket (origin : Origin) (w : Packet) : Option Instr :=
  match decode w with
  | .error _ => none
  | .ok i =>
    match origin with
    | .internal => some i
    | .host => if hostMayIssue i then some i else none

/-- The oldest pending input is consumed. -/
def State.popInput (s : State) : State := { s with inputs := s.inputs.tail }

/-- The host changes the configuration inputs between steps (R37, R47). -/
def configure (s : State) (c : Cfg) : State := { s with cfg := c }

/-- The instruction store changes (R69): only later fetches of the address see it. -/
def storeSource (s : State) (addr : Addr) (d : Descriptor) : State :=
  { s with source := tableInsert addrRank s.source addr d }

/-- A packet placed where the next step takes its operation from, issued from inside the block. -/
def placePacket (s : State) (w : Packet) : State :=
  { s with inputs := .packet .internal w :: s.inputs }

/-- The dump of slot and register-file contents (R226, R251): the five slots, then every register. -/
def dump (s : State) : List Slot × List (Word × Nat) :=
  ([s.slots.fetch, s.slots.decode, s.slots.execute, s.slots.memory, s.slots.writeback],
   (List.range s.params.nregs).map fun r => (regValue s.regs r, regSem s.regs r))

end Sys2Proof.Machine
end

