-- ==== Sys2Proof/Machine/BranchPredictor.lean ====
section
/-! DEFINITION. The meanings of the BP operations (43_branch_predictor.md). -/

namespace Sys2Proof.Machine

/-- BP.PREDICT (R146): a pure read. -/
def execBpPredict (addr : Addr) (s : State) : Host.Outcome State Fault Refusal :=
  .next (s.done (.outcome (bpPredict s.params s.pred addr)))

/-- BP.RESOLVE (R147); refused for an unknown actual outcome (R148). -/
def execBpResolve (addr : Addr) (actual predicted : Outcome) (s : State) :
    Host.Outcome State Fault Refusal :=
  if actual = .unknown then .next s.refuse
  else .next ({ s with pred := bpResolve s.params s.pred addr actual predicted }.done .nothing)

/-- BP.STATS (R153): a pure read. -/
def execBpStats (s : State) : Host.Outcome State Fault Refusal :=
  .next (s.done (.stats s.pred.known s.pred.unknown s.pred.successful s.pred.unsuccessful))

/-- BP.CLEARSTATS (R154). -/
def execBpClearStats (s : State) : Host.Outcome State Fault Refusal :=
  .next ({ s with pred := bpClearStats s.pred }.done .nothing)

/-- BP.CLEARTABLES (R155). -/
def execBpClearTables (s : State) : Host.Outcome State Fault Refusal :=
  .next ({ s with pred := bpClearTables s.params s.pred }.done .nothing)

end Sys2Proof.Machine
end

