-- ==== Sys2Proof/Machine/Operands.lean ====
section
/-! DEFINITION. The operand forms of the packets (R85, R89, R96): pattern keys, counters, shift registers,
tables, references, stage numbers and register indices, each resolved against the state. An operand that
names nothing, or does not fit its table, resolves to `none`, and its operation is `Refused` (R94, R99). -/

namespace Sys2Proof.Machine

/-- The packet form of the sentinel (R85). -/
def nohistWord : Word := 0x8000000000000000#64

/-- The `w` symbols of a pattern vector, newest first (R84); `none` when a code is reserved. -/
def keySymbols : Nat → Word → Option (List Outcome)
  | 0, _ => some []
  | k + 1, a =>
    match outcomeOfCode (a.extractLsb' (2 * k) 2), keySymbols k a with
    | .ok o, some rest => some (o :: rest)
    | .ok _, none => none
    | .error _, _ => none

/-- The pattern key in a packet's `a` field for a table of pattern width `w` (R85): the NOHIST flag, or a
vector of 2`w` bits with zeros above. There is no packet form for `w` above 31. -/
def keyOperand (w : Nat) (a : Word) : Option PKey :=
  if 31 < w then none
  else if a = nohistWord then some .nohist
  else if a.toNat < 4 ^ w then (keySymbols w a).map .pattern
  else none

/-- The keys of LPT (R24): the patterns of width `wLocal` and the sentinel. -/
def localKey (p : Params) (a : Word) : Option PKey := keyOperand p.wLocal a

/-- The keys of GPT (R24): the patterns of width `wGlobal`; the sentinel is not one. -/
def globalKey (p : Params) (a : Word) : Option PKey :=
  match keyOperand p.wGlobal a with
  | some (.pattern h) => some (.pattern h)
  | some .nohist => none
  | none => none

/-- A counter of the block (R21): the selector or an existing table entry. -/
inductive CounterRef where
  | sel
  | lpt (k : PKey)
  | gpt (k : PKey)
  deriving DecidableEq, Repr

/-- The counter a packet's operand names (R89, R96), with its width and value; `none` when the key is not
one of the table's, or the table has no such entry. -/
def counterOperand (s : State) : CounterSel → Option (CounterRef × Nat × Nat)
  | .sel => some (.sel, s.params.bSel, s.pred.sel)
  | .lpt key =>
    match localKey s.params key with
    | none => none
    | some k => (tableFind s.pred.lpt k).map fun v => (.lpt k, s.params.bLocal, v)
  | .gpt key =>
    match globalKey s.params key with
    | none => none
    | some k => (tableFind s.pred.gpt k).map fun v => (.gpt k, s.params.bGlobal, v)

/-- `c.v <- v` (R111, R112). -/
def setCounter (b : Predictor) (c : CounterRef) (v : Nat) : Predictor :=
  match c with
  | .sel => { b with sel := v }
  | .lpt k => { b with lpt := tableInsert keyRank b.lpt k v }
  | .gpt k => { b with gpt := tableInsert keyRank b.gpt k v }

/-- The shift register a packet's operand names (R89, R96); `none` for an address HT has not seen. -/
def historyOperand (s : State) : HistorySel → Option (List Outcome)
  | .ghr => some s.pred.ghr
  | .ht addr => tableFind s.pred.ht addr

/-- The register after a push (R121). -/
def setHistory (b : Predictor) (r : HistorySel) (h : List Outcome) : Predictor :=
  match r with
  | .ghr => { b with ghr := h }
  | .ht addr => { b with ht := tableInsert addrRank b.ht addr h }

/-- The key operand of a PT operation (R96, R99). -/
def tableKey (p : Params) : TableSel → Word → Option PKey
  | .lpt => localKey p
  | .gpt => globalKey p

/-- The table of a PT operation. -/
def tableOf (b : Predictor) : TableSel → List (PKey × Nat)
  | .lpt => b.lpt
  | .gpt => b.gpt

/-- The counter width of a PT operation's table (R24). -/
def tableBits (p : Params) : TableSel → Nat
  | .lpt => p.bLocal
  | .gpt => p.bGlobal

/-- The predictor with one pattern table replaced. -/
def setTable (b : Predictor) (t : TableSel) (entries : List (PKey × Nat)) : Predictor :=
  match t with
  | .lpt => { b with lpt := entries }
  | .gpt => { b with gpt := entries }

/-- The listed instruction with a reference, at the lowest address that holds it. -/
def findRef (source : List (Addr × Descriptor)) (ref : Word) : Option Inst :=
  (source.find? fun e => e.2.ref == ref).map fun e =>
    { ref := e.2.ref, addr := e.1, cls := e.2.cls, behaviour := e.2.behaviour, pred := .unknown }

/-- The instruction a packet's reference names (R95, R167): the listed one, else one whose metadata is a
free value, but for its reference and its unit, which the operand gives (`u` = `fu_of(i)`). DESIGN CHOICE:
a listed instruction is taken as it is, also when it is not FP-arithmetic or its own unit is not `u`
(log 30). -/
def refOperand (s : State) (ref : Word) (u : FUnit) : Inst :=
  (findRef s.source ref).getD { Config.instrOfRef ref with ref := ref, cls := .fpArith u }

/-- The stage a US packet names (R96, R173): stages are numbered from 1; `none` outside the unit's. -/
def stageOperand (t : Tracker) (u : FUnit) (stage : BitVec 8) : Option (Option Inst) :=
  if stage.toNat = 0 then none else (unitStages t u)[stage.toNat - 1]?

/-- A register index (R225): `none` at NREGS and above. -/
def registerOperand (p : Params) (r : BitVec 8) : Option Nat :=
  if r.toNat < p.nregs then some r.toNat else none

/-- The counter map of R46; `none` at a reserved index. Index 0 is `status`. -/
def counterMap (s : State) (index : Nat) : Option Result :=
  match index with
  | 0 => some (.status s.status)
  | 1 => some (.number s.cnt.cycles)
  | 2 => some (.number s.cnt.instructions)
  | 3 => some (.number s.cnt.raw)
  | 4 => some (.number s.cnt.waw)
  | 5 => some (.number s.cnt.divider)
  | 6 => some (.number s.cnt.funit)
  | 7 => some (.number s.cnt.ex)
  | 8 => some (.number s.cnt.memory)
  | 9 => some (.number s.pred.known)
  | 10 => some (.number s.pred.unknown)
  | 11 => some (.number s.pred.successful)
  | 12 => some (.number s.pred.unsuccessful)
  | _ => none

end Sys2Proof.Machine
end

