-- ==== Sys2Proof/Machine/Control.lean ====
section
/-! DEFINITION. The meanings of the other PE operations (46_engine_control.md). -/

namespace Sys2Proof.Machine

/-- The predictor after PE.RESET (R221): the statistics cleared; the tables, GHR and SEL kept unless
CLEAR_BP_ON_RESET. -/
def resetPredictor (p : Params) (b : Predictor) : Predictor :=
  if p.clearBpOnReset then bpClearTables p (bpClearStats b) else bpClearStats b

/-- The block after PE.RESET (R221, R42). The model's own inputs and outputs are not the block's. -/
def resetBlock (s : State) : State :=
  { s with
    slots := Slots.cleared
    regs := clearedRegs s.params
    fu := Tracker.cleared s.params
    pred := resetPredictor s.params s.pred
    cnt := Counters.cleared
    pc := s.params.pcReset
    term := none
    status := .ready
    aborted := false }

/-- PE.RESET (R221): legal in every state. -/
def execPeReset (s : State) : Host.Outcome State Fault Refusal := .next ((resetBlock s).done .nothing)

/-- PE.START (R220): READY to RUNNING, refused in any other state. -/
def execPeStart (s : State) : Host.Outcome State Fault Refusal :=
  if s.status = .ready then .next ({ s with status := .running }.done .nothing) else .next s.refuse

/-- PE.STATUS (R222): a pure read. -/
def execPeStatus (s : State) : Host.Outcome State Fault Refusal := .next (s.done (.status s.status))

/-- PE.COUNTER (R223): a pure read of the map of R46; refused above index 12. -/
def execPeCounter (index : BitVec 8) (s : State) : Host.Outcome State Fault Refusal :=
  match counterMap s index.toNat with
  | none => .next s.refuse
  | some r => .next (s.done r)

/-- PE.SLOT (R224): a pure read. -/
def execPeSlot (slot : SlotName) (s : State) : Host.Outcome State Fault Refusal :=
  .next (s.done (.slot (slotOf s.slots slot)))

/-- PE.REG (R225): a pure read; refused at NREGS and above. -/
def execPeReg (r : BitVec 8) (s : State) : Host.Outcome State Fault Refusal :=
  match registerOperand s.params r with
  | none => .next s.refuse
  | some k => .next (s.done (.registerPair (regValue s.regs k) (regSem s.regs k)))

end Sys2Proof.Machine
end

