-- ==== Sys2Proof/Machine/Engine.lean ====
section
/-! DEFINITION. PE.STEP (45_pipeline_engine.md): the five stages, each as a function from the step so far
to the step so far, in the order WB, MEM, EX, ID, IF (R191). -/

namespace Sys2Proof.Machine

/-- WB stage, first half (R192): what `slot[WB]` holds is consumed; a terminating instruction goes to
TERM, any other real one retires. `none` when a hook breaks its contract. -/
def consumeWriteback (s : State) : Option State :=
  let cleared := { s with slots := { s.slots with writeback := .empty } }
  match s.slots.writeback with
  | .empty => some cleared
  | .bubble => some cleared
  | .instr i =>
    if i.isTerminating then some { cleared with term := some i }
    else (runOkHook .writeback i cleared).map fun t =>
      { t with cnt := { t.cnt with instructions := t.cnt.instructions + 1 } }

/-- WB stage, second half (R192): the deferred terminating instruction retires, and the step halts, when
the tracker is empty and `slot[MEM]` is not real. -/
def retireTerminating (c : Cycle) : Flow :=
  match c.s.term with
  | none => .go c
  | some h =>
    if trackerEmpty c.s.fu && !c.s.slots.memory.real then
      match runOkHook .writeback h c.s with
      | none => .breach
      | some t =>
        .ends { s := { t with cnt := { t.cnt with instructions := t.cnt.instructions + 1 }
                              term := none
                              status := .halted }
                res := { c.res with halt := true } }
    else .go c

/-- WB stage (R192). -/
def wbStage (c : Cycle) : Flow :=
  match consumeWriteback c.s with
  | none => .breach
  | some t => retireTerminating { c with s := t }

/-- MEM stage, the move (R194): the content of `slot[MEM]` to `slot[WB]`. -/
def moveToWriteback (s : State) : State :=
  { s with slots := { s.slots with writeback := s.slots.memory, memory := .empty } }

/-- MEM stage (R194): when `slot[MEM]` is `Empty` nothing moves. -/
def memStage (c : Cycle) : Flow :=
  match c.s.slots.memory with
  | .empty => .go c
  | .bubble => .go { c with s := moveToWriteback c.s }
  | .instr i =>
    match runOkHook .accessMemory i c.s with
    | none => .breach
    | some t => .go { c with s := moveToWriteback t }

/-- The execute hook and the exception it may report (R195, R197). -/
def executeInst (i : Inst) (c : Cycle) : Flow :=
  match runExecuteHook i c.s with
  | none => .breach
  | some (kind, t) => raiseSync { c with s := t } kind

/-- EX stage after the execute hook of an exiting FP instruction (R195, R196): it leaves the tracker, a
real instruction in `slot[EX]` is held back and counted, the tracker advances, and it enters `slot[MEM]`. -/
def exitToMemory (f : Inst) (c : Cycle) : Flow :=
  let held := c.s.slots.execute.real
  .go { s := { c.s with
               fu := fuAdvance (fuExit c.s.fu)
               cnt := if held then { c.s.cnt with memory := c.s.cnt.memory + 1 } else c.s.cnt
               slots := { c.s.slots with memory := .instr f } }
        res := if held then { c.res with memStall := true } else c.res }

/-- EX stage after the execute hook of the integer slot (R195): the tracker advances and `slot[EX]` moves
to `slot[MEM]`, also when it is `Bubble` or `Empty`. -/
def moveToMemory (c : Cycle) : Flow :=
  .go { c with s := { c.s with
                      fu := fuAdvance c.s.fu
                      slots := { c.s.slots with memory := c.s.slots.execute, execute := .empty } } }

/-- EX stage (R195): a ready FP instruction executes instead of the integer slot's. -/
def exStage (c : Cycle) : Flow :=
  match fuPeek c.s.fu with
  | some f => (executeInst f c).andThen (exitToMemory f)
  | none =>
    match c.s.slots.execute with
    | .empty => moveToMemory c
    | .bubble => moveToMemory c
    | .instr i => (executeInst i c).andThen moveToMemory

/-- ID stage, placement into the tracker (R201). -/
def placeInUnit (i : Inst) (u : FUnit) (s : State) : State :=
  { s with fu := fuAdmit s.params s.fu i u, slots := { s.slots with decode := .empty } }

/-- ID stage, placement into `slot[EX]` (R201); a terminating instruction stops the fetching (D20). -/
def placeInExecute (i : Inst) (s : State) : State :=
  { s with
    slots := { s.slots with execute := .instr i, decode := .empty }
    status := if i.isTerminating && decide (s.status = .running) then .stopping else s.status }

/-- ID stage, placement of a Bubble into `slot[EX]` (R199, R201, D43). -/
def placeBubble (s : State) : State :=
  { s with slots := { s.slots with execute := .bubble, decode := .empty } }

/-- What follows the ID stage when it ends with neither a stall nor a redirect (R201). -/
abbrev NextStage := Cycle → Flow

/-- ID stage, the decode hook and what its answer leads to (R200 to R203). -/
def decodeAndPlace (i : Inst) (place : State → State) (nextStage : NextStage) (c : Cycle) : Flow :=
  match runDecodeHook i c.s with
  | none => .breach
  | some (.stall k, t) => stallCycle { c with s := t } k
  | some (.proceed, t) => nextStage { c with s := place t }
  | some (.redirect target, t) => redirectCycle { c with s := place t } target

/-- ID stage, an FP-arithmetic instruction (R199): admission is checked before the decode hook (D24). -/
def decodeFp (i : Inst) (u : FUnit) (nextStage : NextStage) (c : Cycle) : Flow :=
  if canAdmit c.s.fu u then decodeAndPlace i (placeInUnit i u) nextStage c
  else stallCycle c (match u with | .divider => .divider | .adder => .funit | .multiplier => .funit)

/-- ID stage, an integer instruction (R199): `slot[EX]` must be free. -/
def decodeInt (i : Inst) (nextStage : NextStage) (c : Cycle) : Flow :=
  if c.s.slots.execute.real then stallCycle c .ex
  else decodeAndPlace i (placeInExecute i) nextStage c

/-- ID stage (R199 to R203), then the IF stage when it ends with neither a stall nor a redirect (R204). -/
def idStage (nextStage : NextStage) (c : Cycle) : Flow :=
  match c.s.slots.decode with
  | .empty => nextStage c
  | .bubble =>
    if c.s.slots.execute.real then stallCycle c .ex
    else nextStage { c with s := placeBubble c.s }
  | .instr i =>
    match i.fpUnit with
    | some u => decodeFp i u nextStage c
    | none => decodeInt i nextStage c

/-- The content that moves from `slot[IF]` to `slot[ID]`, and the next fetch (R205). -/
def advanceFetch (incoming : Slot) (s : State) : State :=
  fetchNext { s with slots := { s.slots with decode := incoming } }

/-- IF stage (R205, R206, R207). -/
def ifStage (c : Cycle) : Flow :=
  if c.s.status = .running then
    match c.s.slots.fetch with
    | .empty => .go { c with s := advanceFetch .empty c.s }
    | .bubble => .go { c with s := advanceFetch .bubble c.s }
    | .instr i =>
      match runFetchHook i c.s with
      | none => .breach
      | some (brk, i', t) =>
        .go { s := advanceFetch (.instr i') t
              res := { c.res with breakpoint := c.res.breakpoint || brk } }
  else .go { c with s := { c.s with slots := { c.s.slots with decode := .bubble } } }

/-- The step's entry (R191): the cycle is counted, the record is empty. -/
def beginCycle (s : State) : Cycle :=
  { s := { s with cnt := { s.cnt with cycles := s.cnt.cycles + 1 } }, res := StepResult.init }

/-- The stages in order (R191). -/
def runCycle (s : State) : Flow :=
  (((wbStage (beginCycle s)).andThen memStage).andThen exStage).andThen (idStage ifStage)

/-- PE.STEP (R191): `PipelineNotRunning` outside RUNNING and STOPPING; refused after an immediate
termination (R240, D27) and when a hook breaks its contract (R243, D37); else one cycle. -/
def execPeStep (s : State) : Host.Outcome State Fault Refusal :=
  if !s.status.steps then
    .next (s.answer .pipelineNotRunning (.step { StepResult.init with notRunning := true }))
  else if s.aborted then .next s.refuse
  else
    match runCycle s with
    | .go c => .next (c.s.done (.step c.res))
    | .ends c => .next (c.s.done (.step c.res))
    | .breach => .next s.refuse

end Sys2Proof.Machine
end

