-- ==== Sys2Proof/Machine/FunctionalUnits.lean ====
section
/-! DEFINITION. The meanings of the FU operations (44_fu_pipeline.md). -/

namespace Sys2Proof.Machine

/-- FU.TRYADMIT (R167): a rejection changes nothing. DESIGN CHOICE: the packet's unit decides, also for a
listed instruction that is not FP-arithmetic or whose own unit is another (log 30). -/
def execFuTryAdmit (ref : Word) (unit : FUnit) (s : State) : Host.Outcome State Fault Refusal :=
  if canAdmit s.fu unit then
    .next ({ s with fu := fuAdmit s.params s.fu (refOperand s ref unit) unit }.done .admitted)
  else .next (s.done (.rejected unit))

/-- FU.ADVANCE (R169). -/
def execFuAdvance (s : State) : Host.Outcome State Fault Refusal :=
  .next ({ s with fu := fuAdvance s.fu }.done .nothing)

/-- FU.ISEMPTY (R171): a pure query. -/
def execFuIsEmpty (s : State) : Host.Outcome State Fault Refusal :=
  .next (s.done (.flag (trackerEmpty s.fu)))

/-- FU.READYCOUNT (R172): a pure query. -/
def execFuReadyCount (s : State) : Host.Outcome State Fault Refusal :=
  .next (s.done (.number (readyCount s.fu)))

/-- FU.ISSTAGEFILLED (R173): a pure query; refused outside the unit's stages (R99). -/
def execFuIsStageFilled (unit : FUnit) (stage : BitVec 8) (s : State) :
    Host.Outcome State Fault Refusal :=
  match stageOperand s.fu unit stage with
  | none => .next s.refuse
  | some content => .next (s.done (.flag content.isSome))

/-- FU.INSTRAT (R174): a pure query; refused outside the unit's stages (R99). -/
def execFuInstrAt (unit : FUnit) (stage : BitVec 8) (s : State) : Host.Outcome State Fault Refusal :=
  match stageOperand s.fu unit stage with
  | none => .next s.refuse
  | some content => .next (s.done (.reference content))

/-- FU.EXIT (R175). -/
def execFuExit (s : State) : Host.Outcome State Fault Refusal :=
  .next ({ s with fu := fuExit s.fu }.done (.reference (fuPeek s.fu)))

/-- FU.CLEAR (R176). -/
def execFuClear (s : State) : Host.Outcome State Fault Refusal :=
  .next ({ s with fu := Tracker.cleared s.params }.done .nothing)

end Sys2Proof.Machine
end

