-- ==== Sys2Proof/Machine/History.lean ====
section
/-! DEFINITION. The meanings of the SR and HT operations (41_history.md). -/

namespace Sys2Proof.Machine

/-- SR.NEW (R120): the new register is the result; the block is unchanged. A width below 1 fails (D52).
DESIGN CHOICE: a failure carries no result (log 31). -/
def execSrNew (width : BitVec 8) (s : State) : Host.Outcome State Fault Refusal :=
  if width.toNat < 1 then .next (s.answer .invalidInitializer .nothing)
  else .next (s.done (.register (historyNew width.toNat)))

/-- SR.PUSH (R121). -/
def execSrPush (r : HistorySel) (o : Outcome) (s : State) : Host.Outcome State Fault Refusal :=
  match historyOperand s r with
  | none => .next s.refuse
  | some h => .next ({ s with pred := setHistory s.pred r (historyPush h o) }.done .nothing)

/-- SR.PATTERN (R122): a pure read. -/
def execSrPattern (r : HistorySel) (s : State) : Host.Outcome State Fault Refusal :=
  match historyOperand s r with
  | none => .next s.refuse
  | some h => .next (s.done (.key (.pattern h)))

/-- HT.RECORD (R125). -/
def execHtRecord (addr : Addr) (o : Outcome) (s : State) : Host.Outcome State Fault Refusal :=
  .next ({ s with pred := htRecord s.params s.pred addr o }.done .nothing)

/-- HT.PATTERNFOR (R126): a pure read; it creates nothing. -/
def execHtPatternFor (addr : Addr) (s : State) : Host.Outcome State Fault Refusal :=
  .next (s.done (.key (htPatternFor s.pred addr)))

end Sys2Proof.Machine
end

