-- ==== Sys2Proof/Machine/PatternTable.lean ====
section
/-! DEFINITION. The meanings of the PT operations (42_pattern_table.md). -/

namespace Sys2Proof.Machine

/-- PT.PREDICT (R135): a pure read; it creates nothing (C2). -/
def execPtPredict (t : TableSel) (key : Word) (s : State) : Host.Outcome State Fault Refusal :=
  match tableKey s.params t key with
  | none => .next s.refuse
  | some k => .next (s.done (.outcome (ptPredict (tableBits s.params t) (tableOf s.pred t) k)))

/-- PT.TRAIN (R136); refused for an unknown actual outcome (D13). -/
def execPtTrain (t : TableSel) (key : Word) (actual : Outcome) (s : State) :
    Host.Outcome State Fault Refusal :=
  match tableKey s.params t key with
  | none => .next s.refuse
  | some k =>
    if actual = .unknown then .next s.refuse
    else
      let entries := ptTrain (tableBits s.params t) (tableOf s.pred t) k actual
      .next ({ s with pred := setTable s.pred t entries }.done .nothing)

end Sys2Proof.Machine
end

