-- ==== Sys2Proof/Machine/SaturatingCounter.lean ====
section
/-! DEFINITION. The meanings of the SC operations (40_saturating_counter.md). -/

namespace Sys2Proof.Machine

/-- SC.NEW (R110): the new counter is the result; the block is unchanged. DESIGN CHOICE: a failure
carries no result (log 31). -/
def execScNew (bits : BitVec 8) (init : Word) (s : State) : Host.Outcome State Fault Refusal :=
  match counterNew bits.toNat init.toNat with
  | some v => .next (s.done (.counter bits.toNat v))
  | none => .next (s.answer .invalidInitializer .nothing)

/-- SC.INC (R111). -/
def execScInc (c : CounterSel) (s : State) : Host.Outcome State Fault Refusal :=
  match counterOperand s c with
  | none => .next s.refuse
  | some (r, b, v) =>
    .next ({ s with pred := setCounter s.pred r (counterInc b v) }.done (.number (counterInc b v)))

/-- SC.DEC (R112). -/
def execScDec (c : CounterSel) (s : State) : Host.Outcome State Fault Refusal :=
  match counterOperand s c with
  | none => .next s.refuse
  | some (r, _, v) =>
    .next ({ s with pred := setCounter s.pred r (counterDec v) }.done (.number (counterDec v)))

/-- SC.VALUE (R113): a pure read. -/
def execScValue (c : CounterSel) (s : State) : Host.Outcome State Fault Refusal :=
  match counterOperand s c with
  | none => .next s.refuse
  | some (_, _, v) => .next (s.done (.number v))

/-- SC.PREDICTS (R114): a pure read. -/
def execScPredicts (c : CounterSel) (s : State) : Host.Outcome State Fault Refusal :=
  match counterOperand s c with
  | none => .next s.refuse
  | some (_, b, v) => .next (s.done (.flag (counterPredicts b v)))

end Sys2Proof.Machine
end

