-- ==== Sys2Proof/Machine/Dispatch.lean ====
section
/-! DEFINITION. The dispatch of the operations to their meanings, one arm per constructor of `Instr`. -/

namespace Sys2Proof.Machine

def exec (i : Instr) (s : State) : Host.Outcome State Fault Refusal :=
  match i with
  | .scNew bits init => Sys2Proof.Machine.execScNew bits init s
  | .scInc c => Sys2Proof.Machine.execScInc c s
  | .scDec c => Sys2Proof.Machine.execScDec c s
  | .scValue c => Sys2Proof.Machine.execScValue c s
  | .scPredicts c => Sys2Proof.Machine.execScPredicts c s
  | .srNew width => Sys2Proof.Machine.execSrNew width s
  | .srPush r o => Sys2Proof.Machine.execSrPush r o s
  | .srPattern r => Sys2Proof.Machine.execSrPattern r s
  | .htRecord addr o => Sys2Proof.Machine.execHtRecord addr o s
  | .htPatternFor addr => Sys2Proof.Machine.execHtPatternFor addr s
  | .ptPredict t key => Sys2Proof.Machine.execPtPredict t key s
  | .ptTrain t key actual => Sys2Proof.Machine.execPtTrain t key actual s
  | .bpPredict addr => Sys2Proof.Machine.execBpPredict addr s
  | .bpResolve addr actual predicted => Sys2Proof.Machine.execBpResolve addr actual predicted s
  | .bpStats => Sys2Proof.Machine.execBpStats s
  | .bpClearStats => Sys2Proof.Machine.execBpClearStats s
  | .bpClearTables => Sys2Proof.Machine.execBpClearTables s
  | .fuTryAdmit ref unit => Sys2Proof.Machine.execFuTryAdmit ref unit s
  | .fuAdvance => Sys2Proof.Machine.execFuAdvance s
  | .fuIsEmpty => Sys2Proof.Machine.execFuIsEmpty s
  | .fuReadyCount => Sys2Proof.Machine.execFuReadyCount s
  | .fuIsStageFilled unit stage => Sys2Proof.Machine.execFuIsStageFilled unit stage s
  | .fuInstrAt unit stage => Sys2Proof.Machine.execFuInstrAt unit stage s
  | .fuExit => Sys2Proof.Machine.execFuExit s
  | .fuClear => Sys2Proof.Machine.execFuClear s
  | .peStep => Sys2Proof.Machine.execPeStep s
  | .peReset => Sys2Proof.Machine.execPeReset s
  | .peStart => Sys2Proof.Machine.execPeStart s
  | .peStatus => Sys2Proof.Machine.execPeStatus s
  | .peCounter index => Sys2Proof.Machine.execPeCounter index s
  | .peSlot slot => Sys2Proof.Machine.execPeSlot slot s
  | .peReg r => Sys2Proof.Machine.execPeReg r s

end Sys2Proof.Machine
end

