-- ==== Sys2Proof/Machine/Step.lean ====
section
/-! DEFINITION. One step of the machine: the oldest pending input takes effect (R12, R67). -/

namespace Sys2Proof.Machine

/-- One step: a packet runs its operation, or is refused when it is reserved or its origin may not issue
it (R95, R99); a configuration or instruction-store change takes effect; with nothing pending the block is
idle (R252). A parameter set with which no block can be constructed faults (R237). -/
def step (s : State) : Host.Outcome State Fault Refusal :=
  if !s.params.legal then .fault .invalidInitializer
  else
    match s.inputs with
    | [] => .next s
    | .configure c :: _ => .next (configure s.popInput c)
    | .store addr d :: _ => .next (storeSource s.popInput addr d)
    | .packet origin w :: _ =>
      match admitPacket origin w with
      | none => .next s.popInput.refuse
      | some i => exec i s.popInput

/-- The state whose very next step runs the operation of the table word `w`: its packet is the oldest
pending input, issued from inside the block, where every operation may be issued (log 1, 4). -/
def State.withFetchWord (s : State) (nbits w : Nat) : State := placePacket s (packetOfTableWord nbits w)

end Sys2Proof.Machine
end

