-- ==== Sys2Proof/Machine/Codes.lean ====
section
/-! DEFINITION. The value encodings of 30_encoding.md: the character rendering of outcomes and patterns
(normative, R82, R83), the bit-vector keys (R84, R85), the codes of the enumerations (R89 to R94, R236),
and the 8-bit status and 64-bit value of a response (R98). No operation reads a code: they are the outward
form of the state and of the answers (R80). -/

namespace Sys2Proof.Machine

/-- The character of an outcome (R82). -/
def renderOutcome : Outcome → Char
  | .taken => '1'
  | .notTaken => '0'
  | .unknown => 'X'

/-- The string of a pattern, newest outcome first (R83). -/
def renderPattern (h : List Outcome) : List Char := h.map renderOutcome

/-- The string key of the source (R85): the sentinel is the one character "X". -/
def renderKey : PKey → List Char
  | .nohist => ['X']
  | .pattern h => renderPattern h

/-- The symbol codes of a pattern as a number (R84): the newest outcome in the two highest bits. -/
def patternVector (h : List Outcome) : Nat := h.foldl (fun acc o => 4 * acc + (outcomeCode o).toNat) 0

/-- The 64-bit form of a key (R85); there is none for a pattern of more than 31 symbols. -/
def keyWord : PKey → Option Word
  | .nohist => some 0x8000000000000000#64
  | .pattern h => if h.length ≤ 31 then some (BitVec.ofNat 64 (patternVector h)) else none

/-- The code of `status` (R90). -/
def statusCode : Status → BitVec 2
  | .ready => 0#2
  | .running => 1#2
  | .stopping => 2#2
  | .halted => 3#2

/-- The code of a hook result (R91). -/
def hookResultCode : HookResult → BitVec 3
  | .ok => 0#3
  | .rawHazard => 1#3
  | .wawHazard => 2#3
  | .redirect _ => 3#3
  | .syncException _ => 4#3
  | .breakpoint => 5#3
  | .memoryNotAvailable => 6#3
  | .halt => 7#3

/-- The six kinds of stall (R92). The first five end a cycle in ID; `memory` does not (R196). -/
inductive StallKind where
  | raw
  | waw
  | divider
  | funit
  | ex
  | memory
  deriving DecidableEq, Repr

/-- The code of a stall kind (R92); 0 is none. -/
def stallKindCode : Option StallKind → Nat
  | none => 0
  | some .raw => 1
  | some .waw => 2
  | some .divider => 3
  | some .funit => 4
  | some .ex => 5
  | some .memory => 6

/-- The kind of a stall that ends a cycle in ID (R92). -/
def Stall.kind : Stall → StallKind
  | .raw => .raw
  | .waw => .waw
  | .divider => .divider
  | .funit => .funit
  | .ex => .ex

/-- The `id_stall` field of the step's record (R93): a code 0 to 5. -/
def idStallCode (k : Option Stall) : Nat := stallKindCode (k.map Stall.kind)

/-- The stalls that a step's record reports, at most one in ID and the memory stall (R93). -/
def StepResult.stalls (r : StepResult) : List StallKind :=
  (r.idStall.map Stall.kind).toList ++ if r.memStall then [.memory] else []

/-- The counter that a stall kind names (R92, R46). -/
def Counters.ofKind (n : Counters) : StallKind → Nat
  | .raw => n.raw
  | .waw => n.waw
  | .divider => n.divider
  | .funit => n.funit
  | .ex => n.ex
  | .memory => n.memory

/-- The code of a slot's content and its reference (R89). -/
def slotContentCode : Slot → BitVec 2 × Option Word
  | .empty => (0#2, none)
  | .bubble => (1#2, none)
  | .instr i => (2#2, some i.ref)

/-- The code of an operation status (R94), 8 bits in a response (R98). -/
def opStatusCode : OpStatus → BitVec 8
  | .ok => 0#8
  | .invalidInitializer => 1#8
  | .pipelineNotRunning => 2#8
  | .refused => 3#8

/-- The `error` field of the step's record (R93): 0 or 2. -/
def StepResult.error (r : StepResult) : Nat := if r.notRunning then 2 else 0

/-- The 64-bit value of a result (R98), where R98 gives it one: a counter value, a boolean in bit 0, an
Outcome code, a status code, a key, a reference, a count. `none` where it states no single 64-bit value
(log 18); an operation whose rule names no result answers 0. -/
def resultWord : Result → Option Word
  | .nothing => some 0
  | .counter _ value => if value < 2 ^ 64 then some (BitVec.ofNat 64 value) else none
  | .register _ => none
  | .number n => if n < 2 ^ 64 then some (BitVec.ofNat 64 n) else none
  | .flag b => some (if b then 1 else 0)
  | .outcome o => some ((outcomeCode o).setWidth 64)
  | .key k => keyWord k
  | .admitted => none
  | .rejected _ => none
  | .reference (some i) => some i.ref
  | .reference none => none
  | .stats _ _ _ _ => none
  | .status s => some ((statusCode s).setWidth 64)
  | .slot _ => none
  | .registerPair _ _ => none
  | .step _ => none

/-- The raised conditions of a step (R236), with the spec's identifiers. `invalidInitializer` arises only
at construction. -/
inductive Condition where
  | rawHazard
  | wawHazard
  | dividerBusy
  | unitBusy
  | exUnavailable
  | memoryStall
  | redirect
  | syncMasked
  | syncDeferred
  | syncImmediate
  | breakpoint
  | halt
  | pipelineNotRunning
  | invalidInitializer
  deriving DecidableEq, Repr

/-- The identifier of a condition (R236). -/
def conditionId : Condition → Nat
  | .rawHazard => 1
  | .wawHazard => 2
  | .dividerBusy => 3
  | .unitBusy => 4
  | .exUnavailable => 5
  | .memoryStall => 6
  | .redirect => 7
  | .syncMasked => 8
  | .syncDeferred => 9
  | .syncImmediate => 10
  | .breakpoint => 11
  | .halt => 12
  | .pipelineNotRunning => 13
  | .invalidInitializer => 14

/-- The condition of a stall in ID (R236). -/
def stallCondition : Stall → Condition
  | .raw => .rawHazard
  | .waw => .wawHazard
  | .divider => .dividerBusy
  | .funit => .unitBusy
  | .ex => .exUnavailable

/-- The conditions a step's record reports, in the order of R236. -/
def raisedConditions (r : StepResult) : List Condition :=
  (r.idStall.map stallCondition).toList
    ++ (if r.memStall then [.memoryStall] else [])
    ++ (if r.redirect.isSome then [.redirect] else [])
    ++ (if r.masked.isSome then [.syncMasked] else [])
    ++ (if r.sync.isSome then [if r.syncImmediate then .syncImmediate else .syncDeferred] else [])
    ++ (if r.breakpoint then [.breakpoint] else [])
    ++ (if r.halt then [.halt] else [])
    ++ (if r.notRunning then [.pipelineNotRunning] else [])

/-- What a caller must observe after a step (R208, R235): everything but the stalls, the redirect and the
masked exception, which are diagnostics. -/
def mustObserve (r : StepResult) : Bool := r.notRunning || r.halt || r.breakpoint || r.sync.isSome

end Sys2Proof.Machine
end

