-- ==== Sys2Proof/Safety.lean ====
section
/-! DEFINITION. What a safe state and a safe run are, in the terms the statements use: the shape every
state keeps (R39 a to c), the pipeline's invariant between host operations (R39 d and e, R34), and the
count of instructions in flight (R211). -/

namespace Sys2Proof.Machine

/-- A key of LPT (R24): the sentinel or a pattern of width `w`. -/
def localKeyFits (w : Nat) : PKey → Bool
  | .nohist => true
  | .pattern h => h.length == w

/-- A key of GPT (R24): a pattern of width `w`. -/
def globalKeyFits (w : Nat) : PKey → Bool
  | .nohist => false
  | .pattern h => h.length == w

/-- The predictor's shape (R22 to R27, R39 a and b): canonical tables, registers of their width, counters
within their range, `known` = `successful` + `unsuccessful`. -/
abbrev Predictor.WellShaped (p : Params) (b : Predictor) : Prop :=
  TableWf addrRank b.ht ∧ (∀ e ∈ b.ht, e.2.length = p.wLocal)
  ∧ TableWf keyRank b.lpt ∧ (∀ e ∈ b.lpt, localKeyFits p.wLocal e.1 = true ∧ e.2 ≤ 2 ^ p.bLocal - 1)
  ∧ TableWf keyRank b.gpt ∧ (∀ e ∈ b.gpt, globalKeyFits p.wGlobal e.1 = true ∧ e.2 ≤ 2 ^ p.bGlobal - 1)
  ∧ b.ghr.length = p.wGlobal ∧ b.sel ≤ 2 ^ p.bSel - 1
  ∧ b.known = b.successful + b.unsuccessful

/-- The tracker's shape (R35): its units have their stages, and DIV_REM is within its range, 0 while the
Divider is empty. -/
abbrev Tracker.WellShaped (p : Params) (t : Tracker) : Prop :=
  t.add.length = p.addStages ∧ t.mul.length = p.mulStages ∧ t.divRem ≤ p.divLatency - 1
  ∧ (t.div = none → t.divRem = 0)

/-- The register file's shape (R29): NREGS registers, of which register 0 holds 0. -/
abbrev RegsWellShaped (p : Params) (regs : List Reg) : Prop :=
  regs.length = p.nregs ∧ (regs[0]?.map Reg.value).getD 0 = 0

/-- The counters' shape (R250): at most one stall in ID per cycle. -/
abbrev Counters.WellShaped (n : Counters) : Prop :=
  n.raw + n.waw + n.divider + n.funit + n.ex ≤ n.cycles

/-- The shape every operation keeps, from any origin (R39 a to c, R27, R29, R35, R250). -/
abbrev State.WellShaped (s : State) : Prop :=
  s.params.legal = true ∧ s.pred.WellShaped s.params ∧ s.fu.WellShaped s.params
  ∧ RegsWellShaped s.params s.regs ∧ s.cnt.WellShaped ∧ TableWf addrRank s.source

/-- The slot holds a terminating instruction. -/
def Slot.terminating : Slot → Bool
  | .empty => false
  | .bubble => false
  | .instr i => i.isTerminating

/-- Every instruction in the tracker is FP-arithmetic. -/
abbrev Tracker.AllFp (t : Tracker) : Prop :=
  ∀ o ∈ t.div :: (t.add ++ t.mul), (o.all fun i => i.fpUnit.isSome) = true

/-- An input that only the host can make: no packet issued from inside the block (R12, R95). -/
def Input.fromHost : Input → Bool
  | .packet .host _ => true
  | .packet .internal _ => false
  | .configure _ => true
  | .store _ _ => true

/-- READY means idle (R39 d). -/
abbrev State.ReadyIdle (s : State) : Prop :=
  s.status = .ready →
    s.slots = Slots.cleared ∧ trackerEmpty s.fu = true ∧ s.term = none ∧ s.cnt = Counters.cleared
    ∧ s.pred.known = 0 ∧ s.pred.unknown = 0 ∧ s.pred.successful = 0 ∧ s.pred.unsuccessful = 0

/-- HALTED means drained (R39 e). -/
abbrev State.HaltedDrained (s : State) : Prop :=
  s.status = .halted →
    s.term = none ∧ trackerEmpty s.fu = true ∧ s.slots.decode.real = false
    ∧ s.slots.execute.real = false ∧ s.slots.memory.real = false ∧ s.slots.writeback.real = false

/-- While RUNNING no terminating instruction has left `slot[ID]` (R33, R201). -/
abbrev State.RunningPlain (s : State) : Prop :=
  s.status = .running →
    s.term = none ∧ s.slots.execute.terminating = false ∧ s.slots.memory.terminating = false
    ∧ s.slots.writeback.terminating = false

/-- While STOPPING the terminating instruction is in exactly one of `slot[EX]`, `slot[MEM]`, `slot[WB]` and
TERM, and no real instruction follows it in `slot[ID]` or `slot[EX]` (R201, R206, R192). -/
abbrev State.StoppingChain (s : State) : Prop :=
  s.status = .stopping →
    s.slots.decode.real = false
    ∧ ((s.slots.execute.terminating = true ∧ s.slots.memory.terminating = false
          ∧ s.slots.writeback.terminating = false ∧ s.term = none)
      ∨ (s.slots.execute.real = false ∧ s.slots.memory.terminating = true
          ∧ s.slots.writeback.terminating = false ∧ s.term = none)
      ∨ (s.slots.execute.real = false ∧ s.slots.memory.terminating = false
          ∧ s.slots.writeback.terminating = true ∧ s.term = none)
      ∨ (s.slots.execute.real = false ∧ s.slots.memory.terminating = false
          ∧ s.slots.writeback.terminating = false ∧ s.term.isSome = true))

/-- The pipeline's invariant between host operations (R34, R39 d and e): what holds when every pending
input is the host's. -/
abbrev State.PipelineInv (s : State) : Prop :=
  (s.inputs.all Input.fromHost = true) ∧ (s.term.isSome = true → s.status = .stopping)
  ∧ s.ReadyIdle ∧ s.HaltedDrained ∧ s.RunningPlain ∧ s.StoppingChain ∧ s.fu.AllFp
  ∧ (s.aborted = true → s.status.steps = true)

/-- An instruction whose hooks follow the protocols of R145, R187, R189 and R190. -/
def Inst.conforms (i : Inst) : Bool :=
  match i.behaviour with
  | .conforming _ => true
  | .oracle => false

/-- What a slot holds, as an optional instruction. -/
def Slot.inst : Slot → Option Inst
  | .empty => none
  | .bubble => none
  | .instr i => some i

/-- Every place that can hold an instruction in flight: the slots, the tracker's stages, TERM. -/
def State.places (s : State) : List (Option Inst) :=
  s.slots.fetch.inst :: s.slots.decode.inst :: s.slots.execute.inst :: s.slots.memory.inst
    :: s.slots.writeback.inst :: s.term :: s.fu.div :: (s.fu.add ++ s.fu.mul)

/-- Every instruction in flight follows the protocols. -/
abbrev State.AllConform (s : State) : Prop := ∀ o ∈ s.places, o.all Inst.conforms = true

/-- The number of instructions in flight (R211). -/
def State.inFlight (s : State) : Nat := (s.places.filter Option.isSome).length

/-- PE.STEP is accepted: the engine runs and no immediate termination is pending (R191, R240). -/
abbrev State.Steps (s : State) : Prop := s.status.steps = true ∧ s.aborted = false

/-! ### What the statements speak of -/

/-- The table `t'` is `t` with the value `v` under `k`, and every other key as it was. -/
abbrev TableSet {κ ν : Type} [DecidableEq κ] (t t' : List (κ × ν)) (k : κ) (v : ν) : Prop :=
  ∀ k', tableFind t' k' = if k' = k then some v else tableFind t k'

/-- A counter of width `bits` and value `v` moved by a known outcome: up when it was taken, down when it
was not (R137). -/
def movedBy (bits v : Nat) (actual : Outcome) : Nat :=
  if actual = .taken then min (v + 1) (2 ^ bits - 1) else v - 1

/-- One advance of a pipelined unit, stage by stage (R169): with the final stage empty every instruction
moves one stage and the input stage is freed; otherwise the unit is held. -/
abbrev StagesAdvance (l l' : List (Option Inst)) : Prop :=
  l'.length = l.length
  ∧ (l.getLast? = some none → l'[0]? = some none ∧ ∀ k, k + 1 < l.length → l'[k + 1]? = l[k]?)
  ∧ (l.getLast? ≠ some none → l' = l)

/-- The stage count of a unit code (R6, R165). -/
def stageCount (p : Params) (unit : BitVec 2) : Nat :=
  if unit = 0#2 then p.addStages else if unit = 1#2 then p.mulStages else 1

/-- The operation codes of R97. -/
def opcodes : List Nat :=
  [0x10, 0x11, 0x12, 0x13, 0x14, 0x20, 0x21, 0x22, 0x31, 0x32, 0x41, 0x42, 0x50, 0x51, 0x52, 0x53, 0x54,
   0x60, 0x61, 0x62, 0x63, 0x64, 0x65, 0x66, 0x67, 0x70, 0x71, 0x72, 0x73, 0x74, 0x75, 0x76]

/-- The encoding line "op, format IK" of a rule (R96): the packets of an operation on a counter. -/
abbrev SpelledIK (op : BitVec 8) (operation : CounterSel → Instr) : Prop :=
  splitPacket (encode (operation .sel)) = zeroFields op
  ∧ ∀ key,
    splitPacket (encode (operation (.lpt key))) = { zeroFields op with inst := 1#2, a := key }
    ∧ splitPacket (encode (operation (.gpt key))) = { zeroFields op with inst := 2#2, a := key }

/-- The packet uses a reserved encoding, as R99 lists them for a block with the parameters `p`: a reserved
operation code, outcome code (of an operand or of a symbol in a key), unit code, `inst` value, slot
number, counter index, register index or stage number, or a non-zero bit in a field that the format does
not use (R96) or in the reserved bits. -/
def ReservedPacket (p : Params) (w : Packet) : Prop :=
  let f := splitPacket w
  let op := f.op.toNat
  op ∉ opcodes
  ∨ (op ∈ [0x21, 0x31, 0x42, 0x51] ∧ f.o1 = 3#2) ∨ (op = 0x51 ∧ f.o2 = 3#2)
  ∨ (op ∈ [0x11, 0x12, 0x13, 0x14, 0x41, 0x42] ∧ f.inst ≠ 0#2 ∧ f.a.getLsbD 63 = false
      ∧ ∃ k < 31, f.a.extractLsb' (2 * k) 2 = 3#2)
  ∨ (op ∈ [0x60, 0x64, 0x65] ∧ f.unit = 3#2)
  ∨ (op ∈ [0x11, 0x12, 0x13, 0x14, 0x21, 0x22, 0x41, 0x42] ∧ f.inst = 3#2)
  ∨ (op ∈ [0x41, 0x42] ∧ f.inst = 0#2) ∨ (op ∈ [0x21, 0x22] ∧ f.inst = 2#2)
  ∨ (op = 0x75 ∧ 5 ≤ f.n.toNat ∧ f.n.toNat ≤ 7)
  ∨ (op = 0x74 ∧ 12 < f.n.toNat)
  ∨ (op = 0x76 ∧ p.nregs ≤ f.n.toNat)
  ∨ (op ∈ [0x64, 0x65] ∧ (f.n.toNat = 0 ∨ stageCount p f.unit < f.n.toNat))
  ∨ f.reserved ≠ 0#40
  ∨ (op ∉ [0x21, 0x31, 0x42, 0x51] ∧ f.o1 ≠ 0#2)
  ∨ (op ≠ 0x51 ∧ f.o2 ≠ 0#2)
  ∨ (op ∉ [0x60, 0x64, 0x65] ∧ f.unit ≠ 0#2)
  ∨ (op ∉ [0x11, 0x12, 0x13, 0x14, 0x21, 0x22, 0x41, 0x42] ∧ f.inst ≠ 0#2)
  ∨ (op ∉ [0x10, 0x20, 0x64, 0x65, 0x74, 0x75, 0x76] ∧ f.n ≠ 0#8)
  ∨ (op ∈ [0x20, 0x52, 0x53, 0x54, 0x61, 0x62, 0x63, 0x64, 0x65, 0x66, 0x67, 0x70, 0x71, 0x72, 0x73, 0x74,
      0x75, 0x76] ∧ f.a ≠ 0#64)
  ∨ (op ∈ [0x11, 0x12, 0x13, 0x14, 0x21, 0x22] ∧ f.inst = 0#2 ∧ f.a ≠ 0#64)

/-- The operations run one after another, as long as each gives a next state. -/
def runOps : List Instr → State → Option State
  | [], s => some s
  | i :: rest, s =>
    match exec i s with
    | .next t => runOps rest t
    | .fault _ => none
    | .refused _ => none

/-- The step's answer: accepted, with this record (R93). -/
abbrev State.Stepped (t : State) (r : StepResult) : Prop :=
  t.response = { status := .ok, result := .step r }

/-- The instruction whose execute hook the EX stage runs (R195): a ready FP instruction, else the one in
`slot[EX]`. -/
def State.executing (s : State) : Option Inst :=
  match fuPeek s.fu with
  | some f => some f
  | none => s.slots.execute.inst

/-- The cycle does not halt, because the conditions of R192 do not hold: no terminating instruction waits in
TERM or arrives from `slot[WB]`, or the tracker is not empty, or `slot[MEM]` is real. -/
abbrev State.NotHalting (s : State) : Prop :=
  (s.term = none ∧ s.slots.writeback.terminating = false)
  ∨ trackerEmpty s.fu = false ∨ s.slots.memory.real = true

/-- The execute hook of a conforming instruction reports an exception (R188). -/
def Inst.excepts (i : Inst) : Bool :=
  match i.behaviour with
  | .conforming c => c.exception.isSome
  | .oracle => false

/-- The instruction whose execute hook the EX stage runs, if there is one, conforms and reports no exception
(R188, R195). -/
def State.ExecutesQuietly (s : State) : Prop :=
  ∀ e, s.executing = some e → ∃ c, e.behaviour = .conforming c ∧ c.exception = none

/-- The content that `slot[EX]` keeps through the EX stage (R195): its own when an FP instruction exits, else
none. -/
def State.heldExecute (s : State) : Slot := if (fuPeek s.fu).isSome then s.slots.execute else .empty

/-- No exception cuts the cycle short (R240): the policy masks or defers it, or the executing conforming
instruction reports none. -/
abbrev State.NotCutShort (s : State) : Prop :=
  s.cfg.syncMasked = true ∨ s.cfg.syncTerminate = false ∨ (s.executing.any Inst.excepts) = false

/-- The cycle as its MEM stage finds it, unless it ended before (R191). -/
def State.atMemory (s : State) : Flow := wbStage (beginCycle s)

/-- The cycle as its EX stage finds it. -/
def State.atExecute (s : State) : Flow := s.atMemory.andThen memStage

/-- The cycle as its ID stage finds it. -/
def State.atDecode (s : State) : Flow := s.atExecute.andThen exStage

/-- The cycle as its IF stage finds it: the ID stage left it with neither a stall nor a redirect (R204). -/
def State.atFetch (s : State) : Flow := s.atDecode.andThen (idStage .go)

/-- What an oracle's hook answers on a state (R186). -/
def oracleAnswer (h : HookName) (i : Inst) (s : State) : HookOut :=
  Config.hook h i s.regs s.cfg s.pred s.collab s.source

/-- A hazard result that changes neither the register file nor the predictor (R187, U11). -/
def HookOut.cleanHazard (out : HookOut) (s : State) : Prop :=
  (out.result = .rawHazard ∨ out.result = .wawHazard)
  ∧ out.regs.foldl applyRegEffect s.regs = s.regs
  ∧ out.resolves.foldl (applyResolve s.params) s.pred = s.pred

/-- The tracker as the ID stage sees it (R198): after this cycle's exit and advance. -/
def State.trackerAtDecode (s : State) : Tracker := fuAdvance (fuExit s.fu)

/-- The resource that the instruction in `slot[ID]` needs is there (R199). -/
def State.resourceFree (s : State) (i : Inst) : Bool :=
  match i.fpUnit with
  | some u => canAdmit s.trackerAtDecode u
  | none => (fuPeek s.fu).isNone || !s.slots.execute.real

/-- The slot holds an instruction that the WB stage retires at once: a real one that is not terminating
(R192). -/
def Slot.retires (x : Slot) : Bool := x.real && !x.terminating

/-- The register file after the writeback of a conforming instruction (R189): the destination's semaphore is
one lower, and its value written. -/
def writtenRegs (regs : List Reg) (c : Conforming) : List Reg :=
  match c.dest with
  | none => regs
  | some d => setRegValue (setRegSem regs d (regSem regs d - 1)) d c.value

/-- The register file as the ID stage sees it: after this cycle's writeback of a conforming instruction in
`slot[WB]`, which a terminating one there defers (R189, R192). -/
def State.regsAtDecode (s : State) : List Reg :=
  match s.slots.writeback with
  | .empty => s.regs
  | .bubble => s.regs
  | .instr i =>
    if i.isTerminating then s.regs
    else match i.behaviour with
      | .oracle => s.regs
      | .conforming c => writtenRegs s.regs c

/-- The stall a conforming decode hook reports on a register file (R187): RAW before WAW. -/
def hazardOf (regs : List Reg) (c : Conforming) : Option Stall :=
  if ∃ r ∈ c.sources, 0 < regSem regs r then some .raw
  else if c.checksWaw = true ∧ ∃ d, c.dest = some d ∧ 0 < regSem regs d then some .waw
  else none

/-- An instruction without its prediction. -/
def Inst.forget (i : Inst) : Inst := { i with pred := .unknown }

/-- A slot's content without its prediction. -/
def Slot.forget : Slot → Slot
  | .empty => .empty
  | .bubble => .bubble
  | .instr i => .instr i.forget

/-- The instructions in flight, place by place, without their predictions (R211). -/
def State.instructions (s : State) : List Inst := s.places.reduceOption.map Inst.forget

/-- The instructions that a cycle with the answer `r` retires (R192): the one in `slot[WB]` that is not
terminating, and on a halt the terminating one from `slot[WB]` or TERM. -/
def State.retired (s : State) (r : StepResult) : List Inst :=
  if s.slots.writeback.terminating then
    if r.halt then s.slots.writeback.inst.toList else []
  else s.slots.writeback.inst.toList ++ if r.halt then s.term.toList else []

/-- The state without everything that is a prediction: the predictor, and the predictions kept with the
instructions in flight. -/
def State.forget (s : State) : State :=
  { s with
    pred := Predictor.powerOn s.params
    fu := { add := s.fu.add.map (Option.map Inst.forget), mul := s.fu.mul.map (Option.map Inst.forget),
            div := s.fu.div.map Inst.forget, divRem := s.fu.divRem }
    slots := { fetch := s.slots.fetch.forget, decode := s.slots.decode.forget,
               execute := s.slots.execute.forget, memory := s.slots.memory.forget,
               writeback := s.slots.writeback.forget }
    term := s.term.map Inst.forget }

end Sys2Proof.Machine
end

