-- ==== Sys2Proof/Certificates/Slice0/Obligations.lean ====
section
/-! DEFINITION. The statements about the block, in the order of OBLIGATIONS.json. -/

open Sys2Proof Sys2Proof.Machine

/-! ### Packets -/

/-- R95, R96, R97: the packet of a well-formed operation decodes to it, whatever its operands. -/
def Obligations.DecodeOfEncode : Prop := ∀ i : Instr, i.WellFormed → decode (encode i) = .ok i

/-- R95: an operation has one spelling. A packet that the decoder accepts is the packet of the operation
it reads, and that operation is well formed. -/
def Obligations.EncodeOfDecode : Prop :=
  ∀ (w : Packet) (i : Instr), decode w = .ok i → i.WellFormed ∧ encode i = w

/-- R81, R89, R95 to R97: one packet of each component, written out field by field. -/
def Obligations.DecodeOfWrittenPackets : Prop :=
  decode 0x10000200000000000000000000000003#128 = .ok (.scNew 2#8 3#64)
  ∧ decode 0x21410000000000000000000000000100#128 = .ok (.srPush (.ht 0x100#64) .taken)
  ∧ decode 0x31000000000000000000000000000104#128 = .ok (.htRecord 0x104#64 .notTaken)
  ∧ decode 0x42420000000000000000000000000006#128 = .ok (.ptTrain .gpt 6#64 .taken)
  ∧ decode 0x51600000000000000000000000000100#128 = .ok (.bpResolve 0x100#64 .taken .unknown)
  ∧ decode 0x64080100000000000000000000000000#128 = .ok (.fuIsStageFilled .divider 1#8)
  ∧ decode 0x74000c00000000000000000000000000#128 = .ok (.peCounter 12#8)
  ∧ decode 0x70000000000000000000000000000000#128 = .ok .peStep

/-- R99: a packet that uses a reserved encoding is `Refused`, whoever issues it, with no change of state.
Decision D3; that the answer carries no result is log 31. -/
def Obligations.ReservedPacketsRefused : Prop :=
  ∀ (s : State) (origin : Origin) (w : Packet) (rest : List Input),
    s.params.legal = true → s.fu.WellShaped s.params → s.inputs = .packet origin w :: rest →
    ReservedPacket s.params w → step s = .next { s with inputs := rest }.refuse

/-- R12, R95, R145: from the host only the PE operations, BP.STATS and the four FU queries run; the packet
of any other operation is refused and changes nothing. The queries are the host's by log 4;
that the refusal carries no result is log 31. -/
def Obligations.HostRefusedInternalOperations : Prop :=
  ∀ (s : State) (i : Instr) (rest : List Input), s.params.legal = true → i.WellFormed →
    s.inputs = .packet .host (encode i) :: rest →
    step s =
      if i.opcode.toNat < 0x52 ∨ i.opcode.toNat ∈ [0x53, 0x54, 0x60, 0x61, 0x66, 0x67] then
        .next { s with inputs := rest }.refuse
      else exec i { s with inputs := rest }

/-- R67: a step runs the decoded operation of the oldest pending packet, when its origin may issue it, and
consumes the packet; `withFetchWord` places a packet so. The queue of inputs is the model's (log 1). -/
def Obligations.StepRunsDecodedOperation : Prop :=
  (∀ (s : State) (origin : Origin) (w : Packet) (rest : List Input) (i : Instr),
    s.params.legal = true → s.inputs = .packet origin w :: rest → decode w = .ok i →
    (origin = .internal ∨ hostMayIssue i = true) → step s = exec i { s with inputs := rest })
  ∧ ∀ (s : State) (nbits w : Nat) (i : Instr), s.params.legal = true →
    decodeTableWord nbits w = some i → step (s.withFetchWord nbits w) = exec i s

/-- R12, R47, R69, R252: with nothing pending the block is idle; a configuration change replaces the
configuration inputs; a change of the instruction store is what later fetches of that address see, and
changes nothing else, not even what is already in flight. The queue of inputs is the model's (log 1). -/
def Obligations.HostInputsBetweenOperations : Prop :=
  ∀ s : State, s.params.legal = true →
    (s.inputs = [] → step s = .next s)
    ∧ (∀ (c : Cfg) (rest : List Input), s.inputs = .configure c :: rest →
        step s = .next { s with inputs := rest, cfg := c })
    ∧ (∀ (addr : Addr) (d : Descriptor) (rest : List Input), s.inputs = .store addr d :: rest →
        ∃ t source, step s = .next t ∧ t = { s with inputs := rest, source := source }
          ∧ TableSet s.source source addr d
          ∧ fetchInst t addr = { ref := d.ref, addr := addr, cls := d.cls, behaviour := d.behaviour,
                                 pred := .unknown })

/-- R84, R85: for a table of at most 31 symbols, a packet operand names the key `k` exactly when it is the
64-bit form of `k` and `k` has the table's width. Decision D7. -/
def Obligations.PacketKeysOneToOne : Prop :=
  ∀ (w : Nat) (a : Word) (k : PKey), w ≤ 31 →
    (keyOperand w a = some k ↔ keyWord k = some a ∧ localKeyFits w k = true)

/-! ### Saturating counters -/

/-- R110: a new counter, or `InvalidInitializer` when the width is below 1 or the value does not fit; no
state of the block changes. Decision D52; that the failure carries no result is log 31. -/
def Obligations.ScNewResult : Prop :=
  ∀ (bits : BitVec 8) (init : Word) (s : State),
    exec (.scNew bits init) s = .next { s with
      response :=
        if 1 ≤ bits.toNat ∧ init.toNat ≤ 2 ^ bits.toNat - 1 then
          { status := .ok, result := .counter bits.toNat init.toNat }
        else { status := .invalidInitializer, result := .nothing } }

/-- R111: the packet of SC.INC, and SC.INC of the selector and of a counter of either table: the value plus
one, clamped; that counter alone changes, and the new value is the result. -/
def Obligations.ScIncResult : Prop :=
  SpelledIK 0x11#8 .scInc ∧ ∀ s : State,
    (let v := min (s.pred.sel + 1) (2 ^ s.params.bSel - 1)
     exec (.scInc .sel) s = .next ({ s with pred := { s.pred with sel := v } }.done (.number v)))
    ∧ (∀ key k old, localKey s.params key = some k → tableFind s.pred.lpt k = some old →
        let v := min (old + 1) (2 ^ s.params.bLocal - 1)
        ∃ lpt, TableSet s.pred.lpt lpt k v
          ∧ exec (.scInc (.lpt key)) s = .next ({ s with pred := { s.pred with lpt := lpt } }.done (.number v)))
    ∧ (∀ key k old, globalKey s.params key = some k → tableFind s.pred.gpt k = some old →
        let v := min (old + 1) (2 ^ s.params.bGlobal - 1)
        ∃ gpt, TableSet s.pred.gpt gpt k v
          ∧ exec (.scInc (.gpt key)) s = .next ({ s with pred := { s.pred with gpt := gpt } }.done (.number v)))

/-- R112: the packet of SC.DEC, and SC.DEC of the selector and of a counter of either table: the value minus
one, not below 0; that counter alone changes, and the new value is the result. -/
def Obligations.ScDecResult : Prop :=
  SpelledIK 0x12#8 .scDec ∧ ∀ s : State,
    exec (.scDec .sel) s
      = .next ({ s with pred := { s.pred with sel := s.pred.sel - 1 } }.done (.number (s.pred.sel - 1)))
    ∧ (∀ key k old, localKey s.params key = some k → tableFind s.pred.lpt k = some old →
        ∃ lpt, TableSet s.pred.lpt lpt k (old - 1)
          ∧ exec (.scDec (.lpt key)) s
            = .next ({ s with pred := { s.pred with lpt := lpt } }.done (.number (old - 1))))
    ∧ (∀ key k old, globalKey s.params key = some k → tableFind s.pred.gpt k = some old →
        ∃ gpt, TableSet s.pred.gpt gpt k (old - 1)
          ∧ exec (.scDec (.gpt key)) s
            = .next ({ s with pred := { s.pred with gpt := gpt } }.done (.number (old - 1))))

/-- R113, R114: the packets of SC.VALUE and SC.PREDICTS. SC.VALUE gives the counter's value and SC.PREDICTS
whether it is above the threshold, that is at least half the range; neither changes the block. -/
def Obligations.ScReadsResult : Prop :=
  SpelledIK 0x13#8 .scValue ∧ SpelledIK 0x14#8 .scPredicts
  ∧ ∀ (s : State) (c : CounterSel) (r : CounterRef) (bits v : Nat), counterOperand s c = some (r, bits, v) →
    exec (.scValue c) s = .next (s.done (.number v))
    ∧ exec (.scPredicts c) s = .next (s.done (.flag (decide (2 ^ (bits - 1) ≤ v))))

/-- R115 (a) to (e), for the two moves that every counter of the block makes.
Clauses (b) to (e) are inferences of the spec. -/
def Obligations.CounterMovesSaturate : Prop :=
  ∀ bits : Nat, 1 ≤ bits →
    (∀ (moves : List Bool) (v : Nat), v ≤ 2 ^ bits - 1 →
      moves.foldl (fun v up => if up then counterInc bits v else counterDec v) v ≤ 2 ^ bits - 1)
    ∧ (∀ v, v ≤ 2 ^ bits - 1 → v ≤ counterInc bits v ∧ counterInc bits v ≤ v + 1
        ∧ counterDec v ≤ v ∧ v ≤ counterDec v + 1)
    ∧ (∀ v v', v ≤ v' → counterPredicts bits v = true → counterPredicts bits v' = true)
    ∧ (∀ v, v ≤ 2 ^ bits - 1 → (counterInc bits)^[2 ^ bits - 1] v = 2 ^ bits - 1
        ∧ counterDec^[2 ^ bits - 1] v = 0)
    ∧ (∀ v, v ≤ 2 ^ bits - 1 →
        counterDec (counterInc bits v) = (if v = 2 ^ bits - 1 then 2 ^ bits - 2 else v)
        ∧ counterInc bits (counterDec v) = (if v = 0 then 1 else v))

/-! ### Histories -/

/-- R120: a new register holds `Unknown` in every place; a width below 1 fails. The block is unchanged.
Decision D52; that the failure carries no result is log 31. -/
def Obligations.SrNewResult : Prop :=
  ∀ (width : BitVec 8) (s : State),
    exec (.srNew width) s = .next { s with
      response :=
        if 1 ≤ width.toNat then
          { status := .ok, result := .register (List.replicate width.toNat .unknown) }
        else { status := .invalidInitializer, result := .nothing } }

/-- R121: SR.PUSH of GHR and of the register of a seen address: the outcome is the newest, every other
moves one place, the oldest is lost; that register alone changes. -/
def Obligations.SrPushResult : Prop :=
  ∀ (s : State) (o : Outcome),
    (s.pred.ghr ≠ [] → exec (.srPush .ghr o) s
      = .next ({ s with pred := { s.pred with ghr := o :: s.pred.ghr.dropLast } }.done .nothing))
    ∧ ∀ addr h, tableFind s.pred.ht addr = some h → h ≠ [] →
        ∃ ht, TableSet s.pred.ht ht addr (o :: h.dropLast)
          ∧ exec (.srPush (.ht addr) o) s = .next ({ s with pred := { s.pred with ht := ht } }.done .nothing)

/-- R122, R126: the packets of SR.PATTERN and HT.PATTERNFOR. They give the pattern of a register (the key,
whose string renders it outcome by outcome, newest first), HT.PATTERNFOR of an unseen address the
sentinel, whose string is "X"; they change nothing. -/
def Obligations.HistoryReadsResult : Prop :=
  splitPacket (encode (.srPattern .ghr)) = zeroFields 0x22#8
  ∧ (∀ addr, splitPacket (encode (.srPattern (.ht addr)))
        = { zeroFields 0x22#8 with inst := 1#2, a := addr }
      ∧ splitPacket (encode (.htPatternFor addr)) = { zeroFields 0x32#8 with a := addr })
  ∧ (∀ h, renderKey (.pattern h) = h.map fun o =>
      match o with
      | .taken => '1'
      | .notTaken => '0'
      | .unknown => 'X')
  ∧ renderKey .nohist = ['X']
  ∧ ∀ s : State,
    exec (.srPattern .ghr) s = .next (s.done (.key (.pattern s.pred.ghr)))
    ∧ ∀ addr : Addr,
      (∀ h, tableFind s.pred.ht addr = some h →
        exec (.srPattern (.ht addr)) s = .next (s.done (.key (.pattern h)))
        ∧ exec (.htPatternFor addr) s = .next (s.done (.key (.pattern h))))
      ∧ (tableFind s.pred.ht addr = none → exec (.htPatternFor addr) s = .next (s.done (.key .nohist)))

/-- R125: the packet of HT.RECORD. It pushes into the address's register, created with every place `Unknown`
when the address is unseen; no other address's register changes. -/
def Obligations.HtRecordResult : Prop :=
  ∀ (s : State) (addr : Addr) (o : Outcome),
    splitPacket (encode (.htRecord addr o)) = { zeroFields 0x31#8 with a := addr, o1 := outcomeCode o }
    ∧ ∃ ht, exec (.htRecord addr o) s = .next ({ s with pred := { s.pred with ht := ht } }.done .nothing)
      ∧ (tableFind s.pred.ht addr = none → 1 ≤ s.params.wLocal →
          TableSet s.pred.ht ht addr (o :: List.replicate (s.params.wLocal - 1) .unknown))
      ∧ ∀ h, tableFind s.pred.ht addr = some h → h ≠ [] → TableSet s.pred.ht ht addr (o :: h.dropLast)

/-- R123: what consecutive pushes leave in a register of width `w`. In part an inference of the spec. -/
def Obligations.PushesFillHistory : Prop :=
  ∀ (w : Nat) (h outcomes : List Outcome), 1 ≤ w → h.length = w →
    (outcomes.foldl historyPush h).length = w
    ∧ (∀ o, (historyPush h o).head? = some o)
    ∧ ((∀ o ∈ outcomes, o ≠ .unknown) → w ≤ outcomes.length →
        hasUnknown (outcomes.foldl historyPush h) = false)
    ∧ (outcomes.length ≤ w →
        outcomes.foldl historyPush (historyNew w)
          = outcomes.reverse ++ List.replicate (w - outcomes.length) .unknown)

/-! ### Pattern tables -/

/-- R135: the packet of PT.PREDICT. PT.PREDICT of an unseen pattern is `Unknown`, of a seen one its
counter's prediction; it changes nothing, so it creates no entry. -/
def Obligations.PtPredictResult : Prop :=
  (∀ key, splitPacket (encode (.ptPredict .lpt key)) = { zeroFields 0x41#8 with inst := 1#2, a := key }
      ∧ splitPacket (encode (.ptPredict .gpt key)) = { zeroFields 0x41#8 with inst := 2#2, a := key })
  ∧ ∀ (s : State) (t : TableSel) (key : Word) (k : PKey), tableKey s.params t key = some k →
    (tableFind (tableOf s.pred t) k = none → exec (.ptPredict t key) s = .next (s.done (.outcome .unknown)))
    ∧ ∀ v, tableFind (tableOf s.pred t) k = some v →
        exec (.ptPredict t key) s = .next (s.done (.outcome
          (if 2 ^ (tableBits s.params t - 1) ≤ v then .taken else .notTaken)))

/-- R136: PT.TRAIN with a known outcome moves the pattern's counter, created from its seed when the pattern
is unseen; no other counter and nothing else of the block changes. -/
def Obligations.PtTrainResult : Prop :=
  ∀ (s : State) (key : Word) (k : PKey) (actual : Outcome), actual ≠ .unknown →
    (localKey s.params key = some k →
      ∃ lpt, exec (.ptTrain .lpt key actual) s
          = .next ({ s with pred := { s.pred with lpt := lpt } }.done .nothing)
        ∧ TableSet s.pred.lpt lpt k
            (movedBy s.params.bLocal ((tableFind s.pred.lpt k).getD (seedOf s.params.bLocal k)) actual))
    ∧ (globalKey s.params key = some k →
      ∃ gpt, exec (.ptTrain .gpt key actual) s
          = .next ({ s with pred := { s.pred with gpt := gpt } }.done .nothing)
        ∧ TableSet s.pred.gpt gpt k
            (movedBy s.params.bGlobal ((tableFind s.pred.gpt k).getD (seedOf s.params.bGlobal k)) actual))

/-- R87: the seed of a new counter is made of the `bits` oldest outcomes of a pattern without unknowns,
the oldest least significant; it is 0 for a pattern with an unknown and for the sentinel, and always fits.
Decision D8. -/
def Obligations.SeedIsOldestOutcomes : Prop :=
  ∀ bits : Nat,
    seedOf bits .nohist = 0
    ∧ ∀ h : List Outcome,
      (Outcome.unknown ∈ h → seedOf bits (.pattern h) = 0)
      ∧ (Outcome.unknown ∉ h → ∀ k, (seedOf bits (.pattern h)).testBit k
          = decide (k < bits ∧ h.reverse[k]? = some .taken))
      ∧ (1 ≤ bits → counterNew bits (seedOf bits (.pattern h)) = some (seedOf bits (.pattern h)))

/-! ### The branch predictor -/

/-- R146: the packet of BP.PREDICT. It reads the global table under GHR's pattern when the selector is above
its threshold, else the local table under the address's pattern or the sentinel; an absent entry gives
`Unknown`. It changes nothing. -/
def Obligations.BpPredictResult : Prop :=
  (∀ addr, splitPacket (encode (.bpPredict addr)) = { zeroFields 0x50#8 with a := addr })
  ∧ ∀ (s : State) (addr : Addr),
    let lp : PKey := match tableFind s.pred.ht addr with
      | some h => .pattern h
      | none => .nohist
    let entry := if 2 ^ (s.params.bSel - 1) ≤ s.pred.sel
      then (tableFind s.pred.gpt (.pattern s.pred.ghr)).map fun v => decide (2 ^ (s.params.bGlobal - 1) ≤ v)
      else (tableFind s.pred.lpt lp).map fun v => decide (2 ^ (s.params.bLocal - 1) ≤ v)
    exec (.bpPredict addr) s = .next (s.done (.outcome
      (match entry with
        | none => .unknown
        | some true => .taken
        | some false => .notTaken)))

/-- R147, R149, R150, R151: BP.RESOLVE with a known outcome records it in the address's history and in GHR,
trains both tables under the patterns from before, counts the prediction, and moves the selector up
exactly when global was used and right or local was used and not right. Nothing else changes.
Decisions D9 to D12. -/
def Obligations.BpResolveResult : Prop :=
  ∀ (s : State) (addr : Addr) (actual predicted : Outcome), actual ≠ .unknown →
    ∃ b : Predictor,
      exec (.bpResolve addr actual predicted) s = .next ({ s with pred := b }.done .nothing)
      ∧ (let h := (tableFind s.pred.ht addr).getD (List.replicate s.params.wLocal .unknown)
         TableSet s.pred.ht b.ht addr ((actual :: h).take h.length))
      ∧ b.ghr = (actual :: s.pred.ghr).take s.pred.ghr.length
      ∧ (let lp : PKey := match tableFind s.pred.ht addr with
          | some h => .pattern h
          | none => .nohist
         TableSet s.pred.lpt b.lpt lp
          (movedBy s.params.bLocal ((tableFind s.pred.lpt lp).getD (seedOf s.params.bLocal lp)) actual))
      ∧ (let gp : PKey := .pattern s.pred.ghr
         TableSet s.pred.gpt b.gpt gp
          (movedBy s.params.bGlobal ((tableFind s.pred.gpt gp).getD (seedOf s.params.bGlobal gp)) actual))
      ∧ b.unknown = s.pred.unknown + (if predicted = .unknown then 1 else 0)
      ∧ b.known = s.pred.known + (if predicted = .unknown then 0 else 1)
      ∧ b.successful = s.pred.successful + (if predicted = actual then 1 else 0)
      ∧ b.unsuccessful = s.pred.unsuccessful
          + (if predicted = .unknown ∨ predicted = actual then 0 else 1)
      ∧ b.sel = if (2 ^ (s.params.bSel - 1) ≤ s.pred.sel) ↔ predicted = actual
          then min (s.pred.sel + 1) (2 ^ s.params.bSel - 1) else s.pred.sel - 1

/-- R153, R46: the packet of BP.STATS. It gives the four statistics counters, the same values as indices 9
to 12 of the counter map; it changes nothing. -/
def Obligations.BpStatsResult : Prop :=
  splitPacket (encode .bpStats) = zeroFields 0x52#8 ∧ ∀ s : State,
    exec .bpStats s
      = .next (s.done (.stats s.pred.known s.pred.unknown s.pred.successful s.pred.unsuccessful))
    ∧ exec (.peCounter 9#8) s = .next (s.done (.number s.pred.known))
    ∧ exec (.peCounter 10#8) s = .next (s.done (.number s.pred.unknown))
    ∧ exec (.peCounter 11#8) s = .next (s.done (.number s.pred.successful))
    ∧ exec (.peCounter 12#8) s = .next (s.done (.number s.pred.unsuccessful))

/-- R154, R155, R176: what the three clearing operations clear, and that they change nothing else. -/
def Obligations.ClearingOperationsResult : Prop :=
  ∀ s : State,
    exec .bpClearStats s = .next ({ s with
      pred := { s.pred with known := 0, unknown := 0, successful := 0, unsuccessful := 0 } }.done .nothing)
    ∧ exec .bpClearTables s = .next ({ s with
      pred := { s.pred with ht := [], lpt := [], gpt := [],
                            ghr := List.replicate s.params.wGlobal .unknown,
                            sel := s.params.selInit } }.done .nothing)
    ∧ exec .fuClear s = .next ({ s with
      fu := { add := List.replicate s.params.addStages none, mul := List.replicate s.params.mulStages none,
              div := none, divRem := 0 } }.done .nothing)

/-- R94, R136, R148 and the model's reading of an operand that names nothing (log 15): an absent counter or
register, a key that does not fit its table, the sentinel as a key of GPT, and an unknown actual outcome
are refused, and the block is unchanged. The unknown outcome is D13; that the
refusal carries no result is log 31. -/
def Obligations.OperandsNamingNothingRefused : Prop :=
  ∀ s : State,
    (∀ c, counterOperand s c = none →
      exec (.scInc c) s = .next s.refuse ∧ exec (.scDec c) s = .next s.refuse
      ∧ exec (.scValue c) s = .next s.refuse ∧ exec (.scPredicts c) s = .next s.refuse)
    ∧ (∀ addr o, tableFind s.pred.ht addr = none →
        exec (.srPush (.ht addr) o) s = .next s.refuse ∧ exec (.srPattern (.ht addr)) s = .next s.refuse)
    ∧ (∀ t key o, tableKey s.params t key = none →
        exec (.ptPredict t key) s = .next s.refuse ∧ exec (.ptTrain t key o) s = .next s.refuse)
    ∧ (∀ t key, exec (.ptTrain t key .unknown) s = .next s.refuse)
    ∧ tableKey s.params .gpt nohistWord = none
    ∧ ∀ addr predicted, exec (.bpResolve addr .unknown predicted) s = .next s.refuse

/-! ### The functional-unit tracker -/

/-- R167: FU.TRYADMIT admits into a free input stage and into no other place, a divide with its latency
still to go; with the input stage filled it is rejected and nothing changes. Decision D30, log 17.
That a listed reference of another class or unit is admitted too is the model's choice, log 30. -/
def Obligations.FuTryAdmitResult : Prop :=
  ∀ (s : State) (ref : Word), ∃ ia im id : Inst, ia.ref = ref ∧ im.ref = ref ∧ id.ref = ref
    ∧ exec (.fuTryAdmit ref .adder) s
      = (if canAdmit s.fu .adder then
          .next ({ s with fu := { s.fu with add := s.fu.add.set 0 (some ia) } }.done .admitted)
        else .next (s.done (.rejected .adder)))
    ∧ exec (.fuTryAdmit ref .multiplier) s
      = (if canAdmit s.fu .multiplier then
          .next ({ s with fu := { s.fu with mul := s.fu.mul.set 0 (some im) } }.done .admitted)
        else .next (s.done (.rejected .multiplier)))
    ∧ exec (.fuTryAdmit ref .divider) s
      = (if s.fu.div = none then
          .next ({ s with fu := { s.fu with div := some id, divRem := s.params.divLatency - 1 } }.done .admitted)
        else .next (s.done (.rejected .divider)))

/-- R169: FU.ADVANCE moves each pipelined unit by one stage, or holds it while its final stage is filled,
and counts a divide down to 0; nothing else of the block changes. Decisions D29, D30. -/
def Obligations.FuAdvanceResult : Prop :=
  ∀ s : State, ∃ t : Tracker,
    exec .fuAdvance s = .next ({ s with fu := t }.done .nothing)
    ∧ StagesAdvance s.fu.add t.add ∧ StagesAdvance s.fu.mul t.mul ∧ t.div = s.fu.div
    ∧ t.divRem = if s.fu.div.isSome then s.fu.divRem - 1 else s.fu.divRem

/-- R171, R172: FU.ISEMPTY and FU.READYCOUNT, their packets; pure queries; the count is at most 3. It is at
least 1 exactly when FU.EXIT would return an instruction: R178 (d), an inference of the spec. The Divider's
readiness is decision D30 (log 20). -/
def Obligations.FuQueriesResult : Prop :=
  splitPacket (encode .fuIsEmpty) = zeroFields 0x62#8
  ∧ splitPacket (encode .fuReadyCount) = zeroFields 0x63#8 ∧ ∀ s : State,
    (∃ b, exec .fuIsEmpty s = .next (s.done (.flag b))
      ∧ (b = true ↔ (∀ o ∈ s.fu.add ++ s.fu.mul, o = none) ∧ s.fu.div = none))
    ∧ ∃ n, exec .fuReadyCount s = .next (s.done (.number n)) ∧ n ≤ 3
      ∧ n = (if s.fu.add.getLast?.join.isSome then 1 else 0) + (if s.fu.mul.getLast?.join.isSome then 1 else 0)
          + (if s.fu.div.isSome ∧ s.fu.divRem = 0 then 1 else 0)
      ∧ (1 ≤ n ↔ ∃ t i, exec .fuExit s = .next t ∧ t.response.result = .reference (some i))

/-- R173, R174, R99, R166: FU.ISSTAGEFILLED and FU.INSTRAT of a stage of the unit: their packets; pure
queries; a stage number 0 or above the unit's count is refused; a unit admits exactly when its stage 1 is
not filled. That the refusal carries no result is log 31. -/
def Obligations.FuStageQueriesResult : Prop :=
  (∀ u stage,
    splitPacket (encode (.fuIsStageFilled u stage))
      = { zeroFields 0x64#8 with unit := unitCode u, n := stage }
    ∧ splitPacket (encode (.fuInstrAt u stage)) = { zeroFields 0x65#8 with unit := unitCode u, n := stage })
  ∧ ∀ (s : State) (u : FUnit),
    (∀ (stage : BitVec 8) (content : Option Inst), 1 ≤ stage.toNat →
      (unitStages s.fu u)[stage.toNat - 1]? = some content →
      exec (.fuIsStageFilled u stage) s = .next (s.done (.flag content.isSome))
      ∧ exec (.fuInstrAt u stage) s = .next (s.done (.reference content)))
    ∧ (∀ stage : BitVec 8, stage.toNat = 0 ∨ (unitStages s.fu u).length < stage.toNat →
      exec (.fuIsStageFilled u stage) s = .next s.refuse ∧ exec (.fuInstrAt u stage) s = .next s.refuse)
    ∧ (unitStages s.fu u ≠ [] →
      exec (.fuIsStageFilled u 1#8) s = .next (s.done (.flag (!canAdmit s.fu u))))

/-- R175: FU.EXIT takes the ready divide, else the multiply in the final stage, else the add in the final
stage, and gives it; with no unit ready it gives none and changes nothing. Decision D29. -/
def Obligations.FuExitResult : Prop :=
  ∀ s : State,
    (∀ i, s.fu.div = some i → s.fu.divRem = 0 →
      exec .fuExit s
        = .next ({ s with fu := { s.fu with div := none, divRem := 0 } }.done (.reference (some i))))
    ∧ (¬(s.fu.div.isSome ∧ s.fu.divRem = 0) →
      (∀ i, s.fu.mul.getLast? = some (some i) →
        exec .fuExit s
          = .next ({ s with fu := { s.fu with mul := s.fu.mul.dropLast ++ [none] } }.done (.reference (some i))))
      ∧ (s.fu.mul.getLast?.join = none →
        (∀ i, s.fu.add.getLast? = some (some i) →
          exec .fuExit s
            = .next ({ s with fu := { s.fu with add := s.fu.add.dropLast ++ [none] } }.done
                (.reference (some i))))
        ∧ (s.fu.add.getLast?.join = none → exec .fuExit s = .next (s.done (.reference none)))))

/-- R177, R178 (b): after the admission, the n-th advance finds a divide with `divLatency - 1 - n` advances
to go and an add (multiply), admitted into an empty unit, in stage n + 1; each is ready to exit for the
first time after one advance fewer than its latency; the Divider admits nothing meanwhile. Decision D30.
It holds for every reference: which instruction a reference names is log 17, and that a listed one of another
class or unit is admitted too is the model's choice, log 30. -/
def Obligations.LatencyOfUnits : Prop :=
  ∀ (s : State) (ref : Word) (n : Nat), s.params.legal = true →
    (s.fu.div = none → n < s.params.divLatency →
      ∃ t i, runOps (.fuTryAdmit ref .divider :: List.replicate n .fuAdvance) s = some t
        ∧ i.ref = ref ∧ t.fu.div = some i ∧ t.fu.divRem = s.params.divLatency - 1 - n
        ∧ (unitReady t.fu .divider = true ↔ n = s.params.divLatency - 1)
        ∧ canAdmit t.fu .divider = false)
    ∧ (s.fu.add = List.replicate s.params.addStages none → n < s.params.addStages →
      ∃ t i, runOps (.fuTryAdmit ref .adder :: List.replicate n .fuAdvance) s = some t
        ∧ i.ref = ref ∧ t.fu.add = (List.replicate s.params.addStages none).set n (some i)
        ∧ (unitReady t.fu .adder = true ↔ n = s.params.addStages - 1))
    ∧ (s.fu.mul = List.replicate s.params.mulStages none → n < s.params.mulStages →
      ∃ t i, runOps (.fuTryAdmit ref .multiplier :: List.replicate n .fuAdvance) s = some t
        ∧ i.ref = ref ∧ t.fu.mul = (List.replicate s.params.mulStages none).set n (some i)
        ∧ (unitReady t.fu .multiplier = true ↔ n = s.params.mulStages - 1))

/-! ### The engine's control and read operations -/

/-- R220: PE.START takes READY to RUNNING and changes nothing else; in any other state it is refused.
Decision D21; that the refusal carries no result is log 31. -/
def Obligations.PeStartResult : Prop :=
  ∀ s : State,
    exec .peStart s =
      if s.status = .ready then .next ({ s with status := .running }.done .nothing) else .next s.refuse

/-- R221, R42: PE.RESET, legal in every state: what it clears, and that the tables, GHR and SEL are kept
unless CLEAR_BP_ON_RESET. The inputs, the collaborators and the trace are not the block's state.
Decisions D34, D50, log 13. -/
def Obligations.PeResetResult : Prop :=
  ∀ s : State,
    exec .peReset s = .next ({ s with
      slots := { fetch := .empty, decode := .empty, execute := .empty, memory := .empty, writeback := .empty }
      regs := List.replicate s.params.nregs { value := 0, sem := 0 }
      fu := { add := List.replicate s.params.addStages none, mul := List.replicate s.params.mulStages none,
              div := none, divRem := 0 }
      cnt := { cycles := 0, instructions := 0, raw := 0, waw := 0, divider := 0, funit := 0, ex := 0,
               memory := 0 }
      pc := s.params.pcReset
      term := none
      status := .ready
      aborted := false
      pred :=
        { ht := if s.params.clearBpOnReset then [] else s.pred.ht
          lpt := if s.params.clearBpOnReset then [] else s.pred.lpt
          gpt := if s.params.clearBpOnReset then [] else s.pred.gpt
          ghr := if s.params.clearBpOnReset then List.replicate s.params.wGlobal .unknown else s.pred.ghr
          sel := if s.params.clearBpOnReset then s.params.selInit else s.pred.sel
          known := 0, unknown := 0, successful := 0, unsuccessful := 0 } }.done .nothing)

/-- R222 to R225, R46, R29: the engine's reads give the status, a counter of the map, a slot's content and a
register with its semaphore, register 0 reading 0; an index outside is refused. They change nothing. The
packets of PE.STATUS and PE.REG. That the refusal carries no result is log 31. -/
def Obligations.PeReadsResult : Prop :=
  splitPacket (encode .peStatus) = zeroFields 0x73#8
  ∧ (∀ r, splitPacket (encode (.peReg r)) = { zeroFields 0x76#8 with n := r })
  ∧ ∀ s : State,
    exec .peStatus s = .next (s.done (.status s.status))
    ∧ exec (.peCounter 0#8) s = .next (s.done (.status s.status))
    ∧ (∀ k : Fin 12, exec (.peCounter (BitVec.ofNat 8 (k + 1))) s = .next (s.done (.number
        ([s.cnt.cycles, s.cnt.instructions, s.cnt.raw, s.cnt.waw, s.cnt.divider, s.cnt.funit, s.cnt.ex,
          s.cnt.memory, s.pred.known, s.pred.unknown, s.pred.successful, s.pred.unsuccessful].getD k 0))))
    ∧ (∀ index : BitVec 8, 12 < index.toNat → exec (.peCounter index) s = .next s.refuse)
    ∧ exec (.peSlot .fetch) s = .next (s.done (.slot s.slots.fetch))
    ∧ exec (.peSlot .decode) s = .next (s.done (.slot s.slots.decode))
    ∧ exec (.peSlot .execute) s = .next (s.done (.slot s.slots.execute))
    ∧ exec (.peSlot .memory) s = .next (s.done (.slot s.slots.memory))
    ∧ exec (.peSlot .writeback) s = .next (s.done (.slot s.slots.writeback))
    ∧ (∀ (r : BitVec 8) (x : Reg), r.toNat < s.params.nregs → s.regs[r.toNat]? = some x →
        exec (.peReg r) s = .next (s.done (.registerPair (if r.toNat = 0 then 0 else x.value) x.sem)))
    ∧ ∀ r : BitVec 8, s.params.nregs ≤ r.toNat → exec (.peReg r) s = .next s.refuse

/-! ### PE.STEP -/

/-- R191, R237, R240: outside RUNNING and STOPPING PE.STEP fails with `PipelineNotRunning` and changes
nothing; after an immediate termination it is refused and changes nothing. Decisions D27, D44, log 13;
that the refusal carries no record is log 31. -/
def Obligations.PeStepTurnedAway : Prop :=
  ∀ s : State,
    (s.status = .ready ∨ s.status = .halted →
      ∃ r, r.notRunning = true
        ∧ exec .peStep s = .next { s with response := { status := .pipelineNotRunning, result := .step r } })
    ∧ (s.status = .running ∨ s.status = .stopping → s.aborted = true → exec .peStep s = .next s.refuse)

/-- R191, R205: the first cycle after PE.START fetches the instruction at `pc` into `slot[IF]`, notifies the
trace, advances `pc`, counts the cycle, and changes nothing else. -/
def Obligations.PeStepFirstCycle : Prop :=
  ∀ s : State, s.status = .running → s.aborted = false → s.slots = Slots.cleared →
    s.fu = Tracker.cleared s.params → s.term = none →
    exec .peStep s = .next ({ s with
      slots := { s.slots with fetch := .instr (fetchInst s s.pc) }
      trace := s.pc :: s.trace
      pc := s.pc + BitVec.ofNat 64 s.params.iw
      cnt := { s.cnt with cycles := s.cnt.cycles + 1 } }.done (.step StepResult.init))

/-- R191: with conforming instructions in flight, PE.STEP in RUNNING or STOPPING completes a cycle: it is
accepted, it counts the cycle, and it answers with a record without error. Logs 10, 13. -/
def Obligations.PeStepCompletes : Prop :=
  ∀ s : State, s.Steps → s.AllConform →
    ∃ t r, exec .peStep s = .next t ∧ t.Stepped r ∧ r.notRunning = false
      ∧ t.cnt.cycles = s.cnt.cycles + 1

/-- R189, R192, R29: in a cycle that does not halt and whose `slot[WB]` holds a conforming instruction that is
not terminating, its value is written to its destination, which lowers that register's semaphore by one,
and the instruction is counted as retired; no other register's value changes, register 0's not at all.
(PeStepHalts says it of a cycle that halts.) Decision D33, log 10. -/
def Obligations.PeStepWritesBack : Prop :=
  ∀ (s : State) (i : Inst) (c : Conforming), s.Steps → s.AllConform → s.NotHalting →
    s.slots.writeback = .instr i → i.isTerminating = false → i.behaviour = .conforming c →
    ∃ t r, exec .peStep s = .next t ∧ t.Stepped r
      ∧ t.cnt.instructions = s.cnt.instructions + 1
      ∧ (∀ k, k < s.regs.length → regValue t.regs k
          = if k ≠ 0 ∧ c.dest = some k then c.value else regValue s.regs k)
      ∧ (s.slots.decode.real = false → ∀ k, k < s.regs.length →
          regSem t.regs k = regSem s.regs k - (if c.dest = some k then 1 else 0))

/-- R192, R193, R34, R36: a conforming terminating instruction that waits in TERM, or arrives from `slot[WB]`,
with the tracker empty and no real instruction in `slot[MEM]`, retires: the engine halts, the step ends,
and only `slot[WB]`, the status, TERM, two counters and its destination change. A conforming instruction
that is in `slot[WB]` while the terminating one waits in TERM is written back and counted first.
Decisions D18, D19, log 10. -/
def Obligations.PeStepHalts : Prop :=
  ∀ (s : State) (h : Inst) (c : Conforming), s.Steps →
    (s.slots.writeback = .instr h ∧ h.isTerminating = true
      ∨ s.slots.writeback.terminating = false ∧ s.slots.writeback.inst.all Inst.conforms = true
        ∧ s.term = some h) →
    h.behaviour = .conforming c → trackerEmpty s.fu = true → s.slots.memory.real = false →
    exec .peStep s = .next ({ s with
      slots := { s.slots with writeback := .empty }
      cnt := { s.cnt with
        cycles := s.cnt.cycles + 1
        instructions := s.cnt.instructions + s.slots.writeback.retires.toNat + 1 }
      term := none
      status := .halted
      regs := writtenRegs s.regsAtDecode c }.done
      (.step { StepResult.init with halt := true }))

/-- R241: the step that retires the terminating instruction signals the halt, and that step alone makes the
status HALTED; whatever operation but PE.RESET then runs, every later PE.STEP answers `PipelineNotRunning`.
When it retires (tracker empty, nothing real in `slot[MEM]`, TERM) and what it counts is R192 under
decisions D18 and D19; that the later steps change nothing else is R191, R237 and D44 (logs 3, 20). -/
def Obligations.HaltSignalledOnce : Prop :=
  (∀ (s t : State) (r : StepResult), exec .peStep s = .next t → t.Stepped r →
    (r.halt = true ↔ t.status = .halted)
    ∧ (r.halt = true → t.term = none ∧ trackerEmpty s.fu = true ∧ s.slots.memory.real = false
        ∧ (s.term.isSome = true ∨ s.slots.writeback.terminating = true)
        ∧ t.cnt.instructions = s.cnt.instructions + s.slots.writeback.retires.toNat + 1))
  ∧ ∀ (s t : State) (i : Instr), s.status = .halted → i ≠ .peReset → exec i s = .next t →
    t.status = .halted ∧ ∃ r, exec .peStep t
      = .next { t with response := { status := .pipelineNotRunning, result := .step r } }

/-- R227, R33: the transitions of `status`, over all operations: READY to RUNNING by PE.START, RUNNING to
STOPPING by a PE.STEP that places a terminating instruction into `slot[EX]`, STOPPING to HALTED by a
PE.STEP that reports the halt, any to READY by PE.RESET, and no other.
Decision D20, an inference of the spec. -/
def Obligations.StatusTransitions : Prop :=
  ∀ (i : Instr) (s t : State), s.RunningPlain → exec i s = .next t →
    t.status = s.status
    ∨ (i = .peStart ∧ s.status = .ready ∧ t.status = .running)
    ∨ (i = .peStep ∧ s.status = .running ∧ t.status = .stopping
        ∧ ∃ h, s.slots.decode = .instr h ∧ h.isTerminating = true ∧ t.slots.execute = .instr h)
    ∨ (i = .peStep ∧ s.status = .stopping ∧ t.status = .halted ∧ ∃ r, t.Stepped r ∧ r.halt = true)
    ∨ (i = .peReset ∧ t.status = .ready)

/-- R62, R71, R203, R205, R206: a cycle fetches at most once: at the redirect target, or else at `pc`, when
the engine is RUNNING and the cycle was not ended by a stall, a halt or an immediate termination; then
`pc` is that address plus IW, the fetched instruction, which carries the address, is in `slot[IF]`, and what
was there has moved to `slot[ID]`, its prediction apart, or a redirect has put a bubble there.
Otherwise nothing is fetched. An inference of the spec. That the instruction is the one that the source
listed before the cycle, whose hooks run before the fetch, is the model's choice: no hook stores into the
source (logs 9, 33). -/
def Obligations.PeStepFetchesAtMostOnce : Prop :=
  ∀ (s t : State) (r : StepResult), exec .peStep s = .next t → t.Stepped r →
    if t.status = .running ∧ r.idStall = none ∧ r.halt = false ∧ r.syncImmediate = false then
      let a := r.redirect.getD s.pc
      t.trace = a :: s.trace ∧ t.pc = a + BitVec.ofNat 64 s.params.iw
      ∧ t.slots.decode.forget = (if r.redirect.isSome then .bubble else s.slots.fetch.forget)
      ∧ ∃ i, t.slots.fetch = .instr i ∧ i.addr = a
        ∧ ∀ d, tableFind s.source a = some d → i.ref = d.ref ∧ i.cls = d.cls ∧ i.behaviour = d.behaviour
    else t.trace = s.trace ∧ t.pc = r.redirect.getD s.pc ∧ t.slots.fetch = s.slots.fetch

/-- R206: while the engine does not run, the IF stage puts a bubble into `slot[ID]`, calls no hook and
touches nothing else; so in every cycle that reaches it while STOPPING, nothing is fetched. -/
def Obligations.PeStepDrainsBubbles : Prop :=
  (∀ c : Cycle, c.s.status ≠ .running →
    ifStage c = .go { c with s := { c.s with slots := { c.s.slots with decode := .bubble } } })
  ∧ ∀ (s t : State) (r : StepResult), exec .peStep s = .next t → t.Stepped r →
    t.status ≠ .running → r.idStall = none → r.redirect = none → r.halt = false → r.syncImmediate = false →
    t.slots.decode = .bubble ∧ t.slots.fetch = s.slots.fetch ∧ t.pc = s.pc ∧ t.trace = s.trace

/-- R191, R195, R196, R201, R202: a cycle counts itself, counts the stall that ended it in ID and no other, and
counts a memory stall, which it reports exactly when it gets past the execute hook and an exiting FP
instruction holds a real instruction back in `slot[EX]`. A stall leaves `slot[ID]`, `slot[IF]` and `pc` for
the retry, and a bubble in `slot[EX]` unless a real instruction is held there; without one `slot[EX]` has
the integer instruction or the bubble of `slot[ID]`, else what was held. Decisions D22, D23. R6, R37, R47, R69: no cycle
writes the parameters, the configuration inputs, the instruction source or the queue of inputs (logs 1, 5,
7, 9; that no hook stores into the source is the model's choice, log 33). -/
def Obligations.PeStepCountsStalls : Prop :=
  ∀ (s t : State) (r : StepResult), exec .peStep s = .next t → t.Stepped r →
    t.params = s.params ∧ t.cfg = s.cfg ∧ t.source = s.source ∧ t.inputs = s.inputs
    ∧ t.cnt.cycles = s.cnt.cycles + 1
    ∧ t.cnt.raw = s.cnt.raw + (if r.idStall = some .raw then 1 else 0)
    ∧ t.cnt.waw = s.cnt.waw + (if r.idStall = some .waw then 1 else 0)
    ∧ t.cnt.divider = s.cnt.divider + (if r.idStall = some .divider then 1 else 0)
    ∧ t.cnt.funit = s.cnt.funit + (if r.idStall = some .funit then 1 else 0)
    ∧ t.cnt.ex = s.cnt.ex + (if r.idStall = some .ex then 1 else 0)
    ∧ t.cnt.memory = s.cnt.memory + (if r.memStall then 1 else 0)
    ∧ (r.idStall ≠ none →
        t.slots.decode = s.slots.decode ∧ t.slots.fetch = s.slots.fetch ∧ t.pc = s.pc ∧ t.trace = s.trace
        ∧ t.slots.execute = if r.memStall then s.slots.execute else .bubble)
    ∧ r.memStall = (!r.halt && !r.syncImmediate && (fuPeek s.fu).isSome && s.slots.execute.real)
    ∧ (r.idStall = none → r.halt = false → r.syncImmediate = false →
        t.slots.execute = match s.slots.decode with
          | .empty => s.heldExecute
          | .bubble => .bubble
          | .instr i => if i.fpUnit.isSome then s.heldExecute else .instr i)

/-- R195, R197, R240: the exception that the executing instruction reports is masked, deferred or immediate
by the two configuration booleans. Only the immediate one changes the cycle: it ends in EX, with nothing
exited, decoded or fetched, and the next PE.STEP is refused. So it is too while the engine drains, in every
cycle in which a terminating instruction cannot retire yet (R192). In any other cycle, one that halts or
whose executing instruction (if any) reports none, nothing is reported and the latch stays clear; and the
latch is set exactly by an immediate exception. Decisions D26, D27, logs 10, 13, 31; that the step cut short
answers Ok is log 26. -/
def Obligations.PeStepSyncPolicy : Prop :=
  (∀ (s t : State) (r : StepResult), exec .peStep s = .next t → t.Stepped r →
    t.aborted = r.syncImmediate
    ∧ (r.halt = true ∨ s.ExecutesQuietly → r.masked = none ∧ r.sync = none ∧ r.syncImmediate = false))
  ∧ ∀ (s : State) (e : Inst) (c : Conforming) (kind : Nat), s.Steps → s.AllConform → s.NotHalting →
    s.executing = some e → e.behaviour = .conforming c → c.exception = some kind →
    ∃ t r, exec .peStep s = .next t ∧ t.Stepped r
      ∧ (s.cfg.syncMasked = true →
          r.masked = some kind ∧ r.sync = none ∧ r.syncImmediate = false ∧ t.aborted = false)
      ∧ (s.cfg.syncMasked = false → s.cfg.syncTerminate = false →
          r.masked = none ∧ r.sync = some kind ∧ r.syncImmediate = false ∧ t.aborted = false)
      ∧ (s.cfg.syncMasked = false → s.cfg.syncTerminate = true →
          r.masked = none ∧ r.sync = some kind ∧ r.syncImmediate = true ∧ t.aborted = true
          ∧ t.fu = s.fu ∧ t.pc = s.pc ∧ t.status = s.status ∧ t.trace = s.trace
          ∧ t.slots = { s.slots with memory := .empty, writeback := s.slots.memory }
          ∧ exec .peStep t = .next t.refuse)

/-- R194, R195, R198, R201: in a cycle that gets past the execute hook `slot[WB]` takes the content of
`slot[MEM]`, and `slot[MEM]` the ready FP instruction or else the content of `slot[EX]`; the tracker loses
its ready instruction and then advances once, before the ID stage admits at most the instruction of
`slot[ID]` into its free unit. A cycle that ends in WB or EX leaves the tracker alone, and of the slots it
empties `slot[WB]` or moves `slot[MEM]` on. Decisions D16, D24. -/
def Obligations.PeStepAdvancesTracker : Prop :=
  ∀ (s t : State) (r : StepResult), exec .peStep s = .next t → t.Stepped r →
    if r.halt then t.fu = s.fu ∧ t.slots = { s.slots with writeback := .empty }
    else if r.syncImmediate then
      t.fu = s.fu ∧ t.slots = { s.slots with memory := .empty, writeback := s.slots.memory }
    else t.slots.writeback = s.slots.memory
      ∧ t.slots.memory = (match fuPeek s.fu with
        | some f => .instr f
        | none => s.slots.execute)
      ∧ (t.fu = s.trackerAtDecode
      ∨ ∃ i u, s.slots.decode = .instr i ∧ i.fpUnit = some u ∧ canAdmit s.trackerAtDecode u = true
        ∧ r.idStall = none ∧ t.fu = fuAdmit s.params s.trackerAtDecode i u)

/-- R199, R196, R202: an instruction in `slot[ID]` whose resource is missing stalls before its decode hook:
an FP-arithmetic instruction on its unit's input stage, any other (and a bubble) on a held `slot[EX]`;
nothing of the register file, the predictor or the tracker changes on its account.
Decisions D24, D43, log 10. -/
def Obligations.PeStepStructuralStall : Prop :=
  ∀ s : State, s.Steps → s.AllConform → s.NotHalting → s.NotCutShort →
    (∀ i, s.slots.decode = .instr i → s.resourceFree i = false →
      ∃ t r, exec .peStep s = .next t ∧ t.Stepped r
        ∧ r.idStall = some (match i.fpUnit with
          | none => .ex
          | some .divider => .divider
          | some .adder => .funit
          | some .multiplier => .funit)
        ∧ t.regs = s.regsAtDecode ∧ t.pred = s.pred ∧ t.fu = s.trackerAtDecode)
    ∧ (s.slots.decode = .bubble → (fuPeek s.fu).isSome = true → s.slots.execute.real = true →
      ∃ t r, exec .peStep s = .next t ∧ t.Stepped r ∧ r.idStall = some .ex ∧ r.memStall = true)

/-- R187, R200, R201, R274: a conforming instruction whose resource is free stalls for a RAW, else a WAW
hazard on the semaphores as this cycle's writeback leaves them, and a hazard changes neither the register
file nor the predictor. Without one its destination's semaphore rises by one, no other register changes,
and it is placed into its unit or into `slot[EX]`. Decisions D24, D33, log 10. -/
def Obligations.PeStepDecodesByHazards : Prop :=
  ∀ (s : State) (i : Inst) (c : Conforming), s.Steps → s.AllConform → s.NotHalting → s.NotCutShort →
    s.slots.decode = .instr i → i.behaviour = .conforming c → s.resourceFree i = true →
    ∃ t r, exec .peStep s = .next t ∧ t.Stepped r
      ∧ r.idStall = hazardOf s.regsAtDecode c
      ∧ (hazardOf s.regsAtDecode c ≠ none →
          t.regs = s.regsAtDecode ∧ t.pred = s.pred ∧ t.fu = s.trackerAtDecode)
      ∧ (hazardOf s.regsAtDecode c = none →
          t.regs = (match c.dest with
            | none => s.regsAtDecode
            | some d => setRegSem s.regsAtDecode d (regSem s.regsAtDecode d + 1))
          ∧ match i.fpUnit with
            | none => t.slots.execute = .instr i ∧ t.fu = s.trackerAtDecode
            | some u => t.fu = fuAdmit s.params s.trackerAtDecode i u)

/-- R145, R187, R203: on the attempt without a hazard a jump and a taken branch redirect and leave a bubble
in `slot[ID]`; a branch or a jump that uses the predictor resolves once, with its outcome and the prediction
kept from its fetch, and no other instruction changes the predictor. A branch's outcome is the next listed
one, or a free value. Decisions D15, D25, logs 10, 11. -/
def Obligations.PeStepControlFlow : Prop :=
  ∀ (s : State) (i : Inst) (c : Conforming), s.Steps → s.AllConform → s.NotHalting → s.NotCutShort →
    s.slots.decode = .instr i → i.behaviour = .conforming c → s.resourceFree i = true →
    hazardOf s.regsAtDecode c = none →
    ∃ t r, exec .peStep s = .next t ∧ t.Stepped r
      ∧ (c.control = .sequential → r.redirect = none ∧ t.pred = s.pred)
      ∧ (∀ uses target, c.control = .jump uses target →
          r.redirect = some target ∧ t.slots.decode = .bubble
          ∧ t.pred = if uses then bpResolve s.params s.pred i.addr .taken i.pred else s.pred)
      ∧ (∀ uses target, c.control = .branch uses target →
          ∃ taken : Bool,
          (∀ b rest, s.collab.outcomes = b :: rest → taken = b ∧ t.collab.outcomes = rest)
          ∧ r.redirect = (if taken then some target else none)
          ∧ (taken = true → t.slots.decode = .bubble)
          ∧ t.pred = if uses then
              bpResolve s.params s.pred i.addr (if taken then .taken else .notTaken) i.pred
            else s.pred)

/-- R145, R190, R205, R207: in a cycle that reaches the IF stage while RUNNING, the conforming instruction of
`slot[IF]` enters `slot[ID]`, one that uses the predictor with the prediction for its address, and a
breakpoint is reported and changes nothing. Decisions D15, D46, log 10. -/
def Obligations.PeStepMovesFetched : Prop :=
  ∀ (s t : State) (r : StepResult) (f : Inst) (c : Conforming), exec .peStep s = .next t → t.Stepped r →
    t.status = .running → r.idStall = none → r.redirect = none → r.halt = false → r.syncImmediate = false →
    s.slots.fetch = .instr f → f.behaviour = .conforming c →
    r.breakpoint = c.breakpoint
    ∧ t.slots.decode = .instr (
      if (∃ target, c.control = .branch true target) ∨ (∃ target, c.control = .jump true target) then
        { f with pred := bpPredict s.params t.pred f.addr }
      else f)

/-- R243, U10, U11 and logs 10, 25, 31: when any hook of an instruction of which only the contract is known
answers outside its contract (the decode hook also by a hazard after a change of the register file or of
the predictor), the whole step is refused and the block unchanged. The hooks are, in order: writeback of
`slot[WB]`, writeback of the deferred terminating instruction, accessMemory, execute, decode, fetch, each on
the state as the stages before left it. (The answers are free values, so each clause is a disjunction.) -/
def Obligations.PeStepRefusesBreaches : Prop :=
  ∀ (s : State) (i : Inst), s.Steps → i.behaviour = .oracle →
    (s.slots.writeback = .instr i → i.isTerminating = false →
      (oracleAnswer .writeback i s).result = .ok ∨ exec .peStep s = .next s.refuse)
    ∧ (∀ w, consumeWriteback (beginCycle s).s = some w → w.term = some i → trackerEmpty s.fu = true →
      s.slots.memory.real = false →
      (oracleAnswer .writeback i w).result = .ok ∨ exec .peStep s = .next s.refuse)
    ∧ (∀ c, s.atMemory = .go c → c.s.slots.memory = .instr i →
      (oracleAnswer .accessMemory i c.s).result = .ok ∨ exec .peStep s = .next s.refuse)
    ∧ (∀ c, s.atExecute = .go c → c.s.executing = some i →
      (oracleAnswer .execute i c.s).result = .ok
      ∨ (∃ kind, (oracleAnswer .execute i c.s).result = .syncException kind)
      ∨ exec .peStep s = .next s.refuse)
    ∧ (∀ c, s.atDecode = .go c → c.s.slots.decode = .instr i → s.resourceFree i = true →
      (oracleAnswer .decode i c.s).result = .ok
      ∨ (∃ target, (oracleAnswer .decode i c.s).result = .redirect target)
      ∨ (oracleAnswer .decode i c.s).cleanHazard c.s
      ∨ exec .peStep s = .next s.refuse)
    ∧ (∀ c, s.atFetch = .go c → c.s.status = .running → c.s.slots.fetch = .instr i →
      (oracleAnswer .fetch i c.s).result = .ok ∨ (oracleAnswer .fetch i c.s).result = .breakpoint
      ∨ exec .peStep s = .next s.refuse)

/-! ### The machine as a whole -/

/-- R237: with a legal parameter set no step stops; with any other there is no block, and a step faults.
Log 14. -/
def Obligations.StepNeverStops : Prop :=
  ∀ s : State,
    (s.params.legal = true → ∃ t, step s = .next t)
    ∧ (s.params.legal = false → step s = .fault .invalidInitializer)

/-- R20, R29, R30, R36: the operations of the SC, SR, HT, PT and BP components write nothing but the
predictor, those of the FU component nothing but the tracker, and PE.START and the engine's reads write
neither; only PE.STEP and PE.RESET write the registers, `pc`, the slots, TERM and the counters. -/
def Obligations.ComponentsWriteTheirOwnState : Prop :=
  ∀ (i : Instr) (s t : State), exec i s = .next t → i ≠ .peStep → i ≠ .peReset →
    t = { s with pred := t.pred, fu := t.fu, status := t.status, response := t.response }
    ∧ (i ≠ .peStart → t.status = s.status)
    ∧ (0x60 ≤ i.opcode.toNat → t.pred = s.pred)
    ∧ (i.opcode.toNat < 0x60 ∨ 0x70 ≤ i.opcode.toNat → t.fu = s.fu)

/-- R22, R29, R35, R39 (a) to (c), R27, R250: every step, whatever its input, keeps the shape of the state:
counters in range, registers of their width, the tables in canonical form, the tracker's stages, register
0 at 0, `known` = `successful` + `unsuccessful`, and at most one stall in ID per cycle. -/
def Obligations.StepKeepsShape : Prop :=
  ∀ s t : State, s.WellShaped → step s = .next t → t.WellShaped

/-- R34, R39 (d), (e), R33: while every pending input is the host's, every step keeps the pipeline's
invariant: READY is idle, HALTED is drained, TERM is set only while STOPPING, and the terminating
instruction is in exactly one place behind which nothing real follows. An inference of the spec, logs 1, 4. -/
def Obligations.StepKeepsPipeline : Prop :=
  ∀ s t : State, s.PipelineInv → step s = .next t → t.PipelineInv

/-- R40, R41: the state after reset has the shape and the pipeline's invariant, and so has every block that
can be constructed; its predictor is cold, its registers and semaphores are 0 and its engine idle at
`PC_RESET`. The parameters of `State.reset` are logs 5, 6. -/
def Obligations.ResetMeetsInvariants : Prop :=
  State.reset.WellShaped ∧ State.reset.PipelineInv
  ∧ ∀ (p : Params) (s : State), State.construct p = .ok s →
      s.params = p ∧ s.WellShaped ∧ s.PipelineInv ∧ s.pc = p.pcReset ∧ s.status = .ready ∧ s.inFlight = 0
      ∧ s.regs.length = p.nregs ∧ (∀ k < p.nregs, s.regs[k]? = some { value := 0, sem := 0 })
      ∧ s.pred = { ht := [], lpt := [], gpt := [], ghr := List.replicate p.wGlobal .unknown, sel := p.selInit,
                   known := 0, unknown := 0, successful := 0, unsuccessful := 0 }

/-- R211, R35: no instruction is lost or duplicated by a cycle. In a well-shaped state in which the
terminating instruction is not in two places, the instructions in flight after the cycle, those retired
in it and the wrong-path one a redirect discards are, in some order, those in flight before it and the one
fetched, each but for its prediction; and the cycle counts what it retires and notifies what it fetches.
An inference of the spec. -/
def Obligations.CycleConservesInstructions : Prop :=
  ∀ (s t : State) (r : StepResult), s.params.legal = true → s.fu.WellShaped s.params →
    (s.slots.writeback.terminating = true → s.term = none) →
    exec .peStep s = .next t → t.Stepped r →
    let discarded := if r.redirect.isSome ∧ t.status = .running then s.slots.fetch.inst.toList else []
    let fetched := if t.trace = s.trace then [] else t.slots.fetch.inst.toList
    (t.instructions ++ (s.retired r ++ discarded).map Inst.forget).Perm
      (s.instructions ++ fetched.map Inst.forget)
    ∧ t.cnt.instructions = s.cnt.instructions + (s.retired r).length
    ∧ t.trace.length = s.trace.length + fetched.length

/-- R145, R268, R275: a prediction steers nothing. Two states with conforming instructions that differ only
in the predictor and in the predictions kept with the instructions take cycles that again differ only
there: the same fetches, registers, tracker, counters, status and answer. Decision D14, log 10. -/
def Obligations.PredictionSteersNothing : Prop :=
  ∀ s₁ s₂ : State, s₁.Steps → s₁.AllConform → s₁.forget = s₂.forget →
    ∃ t₁ t₂, exec .peStep s₁ = .next t₁ ∧ exec .peStep s₂ = .next t₂ ∧ t₁.forget = t₂.forget

/-- R193, R209, R273: with an empty tracker and conforming instructions, a terminating instruction in
`slot[EX]` halts the engine in the third PE.STEP, and not before. An inference of the spec, log 10. -/
def Obligations.HaltsThreeStepsAfterPlacement : Prop :=
  ∀ (s : State) (h : Inst), s.status = .stopping → s.aborted = false → s.AllConform → s.NotCutShort →
    s.NotHalting → s.slots.execute = .instr h → h.isTerminating = true →
    s.slots.decode.real = false → trackerEmpty s.fu = true →
    ∃ t₁ t₂ t₃, exec .peStep s = .next t₁ ∧ exec .peStep t₁ = .next t₂ ∧ exec .peStep t₂ = .next t₃
      ∧ t₁.status = .stopping ∧ t₂.status = .stopping ∧ t₃.status = .halted
      ∧ t₃.cnt.cycles = s.cnt.cycles + 3 ∧ t₃.trace = s.trace
end

