-- ==== Sys2Proof/Laws/State.lean ====
section
/-! SUPPORT. One lemma per field per update of the state, each true by definition, so that no later proof
unfolds a record update. -/

namespace Sys2Proof.Machine

/-! ### `answer` -/

@[simp] theorem answer_params (s : State) (st : OpStatus) (r : Result) :
    (s.answer st r).params = s.params := rfl
@[simp] theorem answer_pred (s : State) (st : OpStatus) (r : Result) : (s.answer st r).pred = s.pred := rfl
@[simp] theorem answer_fu (s : State) (st : OpStatus) (r : Result) : (s.answer st r).fu = s.fu := rfl
@[simp] theorem answer_slots (s : State) (st : OpStatus) (r : Result) :
    (s.answer st r).slots = s.slots := rfl
@[simp] theorem answer_pc (s : State) (st : OpStatus) (r : Result) : (s.answer st r).pc = s.pc := rfl
@[simp] theorem answer_status (s : State) (st : OpStatus) (r : Result) :
    (s.answer st r).status = s.status := rfl
@[simp] theorem answer_term (s : State) (st : OpStatus) (r : Result) : (s.answer st r).term = s.term := rfl
@[simp] theorem answer_regs (s : State) (st : OpStatus) (r : Result) : (s.answer st r).regs = s.regs := rfl
@[simp] theorem answer_cnt (s : State) (st : OpStatus) (r : Result) : (s.answer st r).cnt = s.cnt := rfl
@[simp] theorem answer_aborted (s : State) (st : OpStatus) (r : Result) :
    (s.answer st r).aborted = s.aborted := rfl
@[simp] theorem answer_cfg (s : State) (st : OpStatus) (r : Result) : (s.answer st r).cfg = s.cfg := rfl
@[simp] theorem answer_source (s : State) (st : OpStatus) (r : Result) :
    (s.answer st r).source = s.source := rfl
@[simp] theorem answer_collab (s : State) (st : OpStatus) (r : Result) :
    (s.answer st r).collab = s.collab := rfl
@[simp] theorem answer_inputs (s : State) (st : OpStatus) (r : Result) :
    (s.answer st r).inputs = s.inputs := rfl
@[simp] theorem answer_response (s : State) (st : OpStatus) (r : Result) :
    (s.answer st r).response = { status := st, result := r } := rfl
@[simp] theorem answer_trace (s : State) (st : OpStatus) (r : Result) :
    (s.answer st r).trace = s.trace := rfl

/-! ### `refuse` -/

@[simp] theorem refuse_params (s : State) : s.refuse.params = s.params := rfl
@[simp] theorem refuse_pred (s : State) : s.refuse.pred = s.pred := rfl
@[simp] theorem refuse_fu (s : State) : s.refuse.fu = s.fu := rfl
@[simp] theorem refuse_slots (s : State) : s.refuse.slots = s.slots := rfl
@[simp] theorem refuse_pc (s : State) : s.refuse.pc = s.pc := rfl
@[simp] theorem refuse_status (s : State) : s.refuse.status = s.status := rfl
@[simp] theorem refuse_term (s : State) : s.refuse.term = s.term := rfl
@[simp] theorem refuse_regs (s : State) : s.refuse.regs = s.regs := rfl
@[simp] theorem refuse_cnt (s : State) : s.refuse.cnt = s.cnt := rfl
@[simp] theorem refuse_aborted (s : State) : s.refuse.aborted = s.aborted := rfl
@[simp] theorem refuse_cfg (s : State) : s.refuse.cfg = s.cfg := rfl
@[simp] theorem refuse_source (s : State) : s.refuse.source = s.source := rfl
@[simp] theorem refuse_collab (s : State) : s.refuse.collab = s.collab := rfl
@[simp] theorem refuse_inputs (s : State) : s.refuse.inputs = s.inputs := rfl
@[simp] theorem refuse_response (s : State) :
    s.refuse.response = { status := .refused, result := .nothing } := rfl
@[simp] theorem refuse_trace (s : State) : s.refuse.trace = s.trace := rfl

/-! ### `done` -/

@[simp] theorem done_params (s : State) (r : Result) : (s.done r).params = s.params := rfl
@[simp] theorem done_pred (s : State) (r : Result) : (s.done r).pred = s.pred := rfl
@[simp] theorem done_fu (s : State) (r : Result) : (s.done r).fu = s.fu := rfl
@[simp] theorem done_slots (s : State) (r : Result) : (s.done r).slots = s.slots := rfl
@[simp] theorem done_pc (s : State) (r : Result) : (s.done r).pc = s.pc := rfl
@[simp] theorem done_status (s : State) (r : Result) : (s.done r).status = s.status := rfl
@[simp] theorem done_term (s : State) (r : Result) : (s.done r).term = s.term := rfl
@[simp] theorem done_regs (s : State) (r : Result) : (s.done r).regs = s.regs := rfl
@[simp] theorem done_cnt (s : State) (r : Result) : (s.done r).cnt = s.cnt := rfl
@[simp] theorem done_aborted (s : State) (r : Result) : (s.done r).aborted = s.aborted := rfl
@[simp] theorem done_cfg (s : State) (r : Result) : (s.done r).cfg = s.cfg := rfl
@[simp] theorem done_source (s : State) (r : Result) : (s.done r).source = s.source := rfl
@[simp] theorem done_collab (s : State) (r : Result) : (s.done r).collab = s.collab := rfl
@[simp] theorem done_inputs (s : State) (r : Result) : (s.done r).inputs = s.inputs := rfl
@[simp] theorem done_response (s : State) (r : Result) :
    (s.done r).response = { status := .ok, result := r } := rfl
@[simp] theorem done_trace (s : State) (r : Result) : (s.done r).trace = s.trace := rfl

/-! ### `popInput` -/

@[simp] theorem popInput_params (s : State) : s.popInput.params = s.params := rfl
@[simp] theorem popInput_pred (s : State) : s.popInput.pred = s.pred := rfl
@[simp] theorem popInput_fu (s : State) : s.popInput.fu = s.fu := rfl
@[simp] theorem popInput_slots (s : State) : s.popInput.slots = s.slots := rfl
@[simp] theorem popInput_pc (s : State) : s.popInput.pc = s.pc := rfl
@[simp] theorem popInput_status (s : State) : s.popInput.status = s.status := rfl
@[simp] theorem popInput_term (s : State) : s.popInput.term = s.term := rfl
@[simp] theorem popInput_regs (s : State) : s.popInput.regs = s.regs := rfl
@[simp] theorem popInput_cnt (s : State) : s.popInput.cnt = s.cnt := rfl
@[simp] theorem popInput_aborted (s : State) : s.popInput.aborted = s.aborted := rfl
@[simp] theorem popInput_cfg (s : State) : s.popInput.cfg = s.cfg := rfl
@[simp] theorem popInput_source (s : State) : s.popInput.source = s.source := rfl
@[simp] theorem popInput_collab (s : State) : s.popInput.collab = s.collab := rfl
@[simp] theorem popInput_inputs (s : State) : s.popInput.inputs = s.inputs.tail := rfl
@[simp] theorem popInput_response (s : State) : s.popInput.response = s.response := rfl
@[simp] theorem popInput_trace (s : State) : s.popInput.trace = s.trace := rfl

/-! ### `applyHook` -/

@[simp] theorem applyHook_params (s : State) (out : HookOut) : (applyHook s out).params = s.params := rfl
@[simp] theorem applyHook_pred (s : State) (out : HookOut) :
    (applyHook s out).pred = out.resolves.foldl (applyResolve s.params) s.pred := rfl
@[simp] theorem applyHook_fu (s : State) (out : HookOut) : (applyHook s out).fu = s.fu := rfl
@[simp] theorem applyHook_slots (s : State) (out : HookOut) : (applyHook s out).slots = s.slots := rfl
@[simp] theorem applyHook_pc (s : State) (out : HookOut) : (applyHook s out).pc = s.pc := rfl
@[simp] theorem applyHook_status (s : State) (out : HookOut) : (applyHook s out).status = s.status := rfl
@[simp] theorem applyHook_term (s : State) (out : HookOut) : (applyHook s out).term = s.term := rfl
@[simp] theorem applyHook_regs (s : State) (out : HookOut) :
    (applyHook s out).regs = out.regs.foldl applyRegEffect s.regs := rfl
@[simp] theorem applyHook_cnt (s : State) (out : HookOut) : (applyHook s out).cnt = s.cnt := rfl
@[simp] theorem applyHook_aborted (s : State) (out : HookOut) : (applyHook s out).aborted = s.aborted := rfl
@[simp] theorem applyHook_cfg (s : State) (out : HookOut) : (applyHook s out).cfg = s.cfg := rfl
@[simp] theorem applyHook_source (s : State) (out : HookOut) : (applyHook s out).source = s.source := rfl
@[simp] theorem applyHook_collab (s : State) (out : HookOut) : (applyHook s out).collab = out.collab := rfl
@[simp] theorem applyHook_inputs (s : State) (out : HookOut) : (applyHook s out).inputs = s.inputs := rfl
@[simp] theorem applyHook_response (s : State) (out : HookOut) :
    (applyHook s out).response = s.response := rfl
@[simp] theorem applyHook_trace (s : State) (out : HookOut) : (applyHook s out).trace = s.trace := rfl

/-! ### `fetchNext` -/

@[simp] theorem fetchNext_params (s : State) : (fetchNext s).params = s.params := rfl
@[simp] theorem fetchNext_pred (s : State) : (fetchNext s).pred = s.pred := rfl
@[simp] theorem fetchNext_fu (s : State) : (fetchNext s).fu = s.fu := rfl
@[simp] theorem fetchNext_slots (s : State) :
    (fetchNext s).slots = { s.slots with fetch := .instr (fetchInst s s.pc) } := rfl
@[simp] theorem fetchNext_pc (s : State) : (fetchNext s).pc = s.pc + BitVec.ofNat 64 s.params.iw := rfl
@[simp] theorem fetchNext_status (s : State) : (fetchNext s).status = s.status := rfl
@[simp] theorem fetchNext_term (s : State) : (fetchNext s).term = s.term := rfl
@[simp] theorem fetchNext_regs (s : State) : (fetchNext s).regs = s.regs := rfl
@[simp] theorem fetchNext_cnt (s : State) : (fetchNext s).cnt = s.cnt := rfl
@[simp] theorem fetchNext_aborted (s : State) : (fetchNext s).aborted = s.aborted := rfl
@[simp] theorem fetchNext_cfg (s : State) : (fetchNext s).cfg = s.cfg := rfl
@[simp] theorem fetchNext_source (s : State) : (fetchNext s).source = s.source := rfl
@[simp] theorem fetchNext_collab (s : State) : (fetchNext s).collab = s.collab := rfl
@[simp] theorem fetchNext_inputs (s : State) : (fetchNext s).inputs = s.inputs := rfl
@[simp] theorem fetchNext_response (s : State) : (fetchNext s).response = s.response := rfl
@[simp] theorem fetchNext_trace (s : State) : (fetchNext s).trace = s.pc :: s.trace := rfl

/-! ### `configure` -/

@[simp] theorem configure_params (s : State) (c : Cfg) : (configure s c).params = s.params := rfl
@[simp] theorem configure_pred (s : State) (c : Cfg) : (configure s c).pred = s.pred := rfl
@[simp] theorem configure_fu (s : State) (c : Cfg) : (configure s c).fu = s.fu := rfl
@[simp] theorem configure_slots (s : State) (c : Cfg) : (configure s c).slots = s.slots := rfl
@[simp] theorem configure_pc (s : State) (c : Cfg) : (configure s c).pc = s.pc := rfl
@[simp] theorem configure_status (s : State) (c : Cfg) : (configure s c).status = s.status := rfl
@[simp] theorem configure_term (s : State) (c : Cfg) : (configure s c).term = s.term := rfl
@[simp] theorem configure_regs (s : State) (c : Cfg) : (configure s c).regs = s.regs := rfl
@[simp] theorem configure_cnt (s : State) (c : Cfg) : (configure s c).cnt = s.cnt := rfl
@[simp] theorem configure_aborted (s : State) (c : Cfg) : (configure s c).aborted = s.aborted := rfl
@[simp] theorem configure_cfg (s : State) (c : Cfg) : (configure s c).cfg = c := rfl
@[simp] theorem configure_source (s : State) (c : Cfg) : (configure s c).source = s.source := rfl
@[simp] theorem configure_collab (s : State) (c : Cfg) : (configure s c).collab = s.collab := rfl
@[simp] theorem configure_inputs (s : State) (c : Cfg) : (configure s c).inputs = s.inputs := rfl
@[simp] theorem configure_response (s : State) (c : Cfg) : (configure s c).response = s.response := rfl
@[simp] theorem configure_trace (s : State) (c : Cfg) : (configure s c).trace = s.trace := rfl

/-! ### `storeSource` -/

@[simp] theorem storeSource_params (s : State) (a : Addr) (d : Descriptor) :
    (storeSource s a d).params = s.params := rfl
@[simp] theorem storeSource_pred (s : State) (a : Addr) (d : Descriptor) :
    (storeSource s a d).pred = s.pred := rfl
@[simp] theorem storeSource_fu (s : State) (a : Addr) (d : Descriptor) :
    (storeSource s a d).fu = s.fu := rfl
@[simp] theorem storeSource_slots (s : State) (a : Addr) (d : Descriptor) :
    (storeSource s a d).slots = s.slots := rfl
@[simp] theorem storeSource_pc (s : State) (a : Addr) (d : Descriptor) :
    (storeSource s a d).pc = s.pc := rfl
@[simp] theorem storeSource_status (s : State) (a : Addr) (d : Descriptor) :
    (storeSource s a d).status = s.status := rfl
@[simp] theorem storeSource_term (s : State) (a : Addr) (d : Descriptor) :
    (storeSource s a d).term = s.term := rfl
@[simp] theorem storeSource_regs (s : State) (a : Addr) (d : Descriptor) :
    (storeSource s a d).regs = s.regs := rfl
@[simp] theorem storeSource_cnt (s : State) (a : Addr) (d : Descriptor) :
    (storeSource s a d).cnt = s.cnt := rfl
@[simp] theorem storeSource_aborted (s : State) (a : Addr) (d : Descriptor) :
    (storeSource s a d).aborted = s.aborted := rfl
@[simp] theorem storeSource_cfg (s : State) (a : Addr) (d : Descriptor) :
    (storeSource s a d).cfg = s.cfg := rfl
@[simp] theorem storeSource_source (s : State) (a : Addr) (d : Descriptor) :
    (storeSource s a d).source = tableInsert addrRank s.source a d := rfl
@[simp] theorem storeSource_collab (s : State) (a : Addr) (d : Descriptor) :
    (storeSource s a d).collab = s.collab := rfl
@[simp] theorem storeSource_inputs (s : State) (a : Addr) (d : Descriptor) :
    (storeSource s a d).inputs = s.inputs := rfl
@[simp] theorem storeSource_response (s : State) (a : Addr) (d : Descriptor) :
    (storeSource s a d).response = s.response := rfl
@[simp] theorem storeSource_trace (s : State) (a : Addr) (d : Descriptor) :
    (storeSource s a d).trace = s.trace := rfl

/-! ### `placePacket` -/

@[simp] theorem placePacket_params (s : State) (w : Packet) : (placePacket s w).params = s.params := rfl
@[simp] theorem placePacket_pred (s : State) (w : Packet) : (placePacket s w).pred = s.pred := rfl
@[simp] theorem placePacket_fu (s : State) (w : Packet) : (placePacket s w).fu = s.fu := rfl
@[simp] theorem placePacket_slots (s : State) (w : Packet) : (placePacket s w).slots = s.slots := rfl
@[simp] theorem placePacket_pc (s : State) (w : Packet) : (placePacket s w).pc = s.pc := rfl
@[simp] theorem placePacket_status (s : State) (w : Packet) : (placePacket s w).status = s.status := rfl
@[simp] theorem placePacket_term (s : State) (w : Packet) : (placePacket s w).term = s.term := rfl
@[simp] theorem placePacket_regs (s : State) (w : Packet) : (placePacket s w).regs = s.regs := rfl
@[simp] theorem placePacket_cnt (s : State) (w : Packet) : (placePacket s w).cnt = s.cnt := rfl
@[simp] theorem placePacket_aborted (s : State) (w : Packet) : (placePacket s w).aborted = s.aborted := rfl
@[simp] theorem placePacket_cfg (s : State) (w : Packet) : (placePacket s w).cfg = s.cfg := rfl
@[simp] theorem placePacket_source (s : State) (w : Packet) : (placePacket s w).source = s.source := rfl
@[simp] theorem placePacket_collab (s : State) (w : Packet) : (placePacket s w).collab = s.collab := rfl
@[simp] theorem placePacket_inputs (s : State) (w : Packet) :
    (placePacket s w).inputs = .packet .internal w :: s.inputs := rfl
@[simp] theorem placePacket_response (s : State) (w : Packet) :
    (placePacket s w).response = s.response := rfl
@[simp] theorem placePacket_trace (s : State) (w : Packet) : (placePacket s w).trace = s.trace := rfl

/-! ### `resetBlock` -/

@[simp] theorem resetBlock_params (s : State) : (resetBlock s).params = s.params := rfl
@[simp] theorem resetBlock_pred (s : State) : (resetBlock s).pred = resetPredictor s.params s.pred := rfl
@[simp] theorem resetBlock_fu (s : State) : (resetBlock s).fu = Tracker.cleared s.params := rfl
@[simp] theorem resetBlock_slots (s : State) : (resetBlock s).slots = Slots.cleared := rfl
@[simp] theorem resetBlock_pc (s : State) : (resetBlock s).pc = s.params.pcReset := rfl
@[simp] theorem resetBlock_status (s : State) : (resetBlock s).status = .ready := rfl
@[simp] theorem resetBlock_term (s : State) : (resetBlock s).term = none := rfl
@[simp] theorem resetBlock_regs (s : State) : (resetBlock s).regs = clearedRegs s.params := rfl
@[simp] theorem resetBlock_cnt (s : State) : (resetBlock s).cnt = Counters.cleared := rfl
@[simp] theorem resetBlock_aborted (s : State) : (resetBlock s).aborted = false := rfl
@[simp] theorem resetBlock_cfg (s : State) : (resetBlock s).cfg = s.cfg := rfl
@[simp] theorem resetBlock_source (s : State) : (resetBlock s).source = s.source := rfl
@[simp] theorem resetBlock_collab (s : State) : (resetBlock s).collab = s.collab := rfl
@[simp] theorem resetBlock_inputs (s : State) : (resetBlock s).inputs = s.inputs := rfl
@[simp] theorem resetBlock_response (s : State) : (resetBlock s).response = s.response := rfl
@[simp] theorem resetBlock_trace (s : State) : (resetBlock s).trace = s.trace := rfl

/-! ### `moveToWriteback` -/

@[simp] theorem moveToWriteback_params (s : State) : (moveToWriteback s).params = s.params := rfl
@[simp] theorem moveToWriteback_pred (s : State) : (moveToWriteback s).pred = s.pred := rfl
@[simp] theorem moveToWriteback_fu (s : State) : (moveToWriteback s).fu = s.fu := rfl
@[simp] theorem moveToWriteback_slots (s : State) :
    (moveToWriteback s).slots = { s.slots with writeback := s.slots.memory, memory := .empty } := rfl
@[simp] theorem moveToWriteback_pc (s : State) : (moveToWriteback s).pc = s.pc := rfl
@[simp] theorem moveToWriteback_status (s : State) : (moveToWriteback s).status = s.status := rfl
@[simp] theorem moveToWriteback_term (s : State) : (moveToWriteback s).term = s.term := rfl
@[simp] theorem moveToWriteback_regs (s : State) : (moveToWriteback s).regs = s.regs := rfl
@[simp] theorem moveToWriteback_cnt (s : State) : (moveToWriteback s).cnt = s.cnt := rfl
@[simp] theorem moveToWriteback_aborted (s : State) : (moveToWriteback s).aborted = s.aborted := rfl
@[simp] theorem moveToWriteback_cfg (s : State) : (moveToWriteback s).cfg = s.cfg := rfl
@[simp] theorem moveToWriteback_source (s : State) : (moveToWriteback s).source = s.source := rfl
@[simp] theorem moveToWriteback_collab (s : State) : (moveToWriteback s).collab = s.collab := rfl
@[simp] theorem moveToWriteback_inputs (s : State) : (moveToWriteback s).inputs = s.inputs := rfl
@[simp] theorem moveToWriteback_response (s : State) : (moveToWriteback s).response = s.response := rfl
@[simp] theorem moveToWriteback_trace (s : State) : (moveToWriteback s).trace = s.trace := rfl

end Sys2Proof.Machine
end

