-- ==== Sys2Proof/Laws/Hooks.lean ====
section
/-! SUPPORT. What the calls of the hooks can do: a hook answers inside its contract and changes only what
`applyHook` changes, and what the hooks of a conforming instruction answer. -/

namespace Sys2Proof.Machine

/-- A hook whose only allowed result is `Ok`: it answered `Ok`. -/
theorem runOkHook_cases {h : HookName} {i : Inst} {s t : State} (ht : runOkHook h i s = some t) :
    (callHook h i s).result = .ok ∧ t = applyHook s (callHook h i s) := by
  unfold runOkHook at ht
  generalize callHook h i s = out at ht ⊢
  dsimp only at ht
  split at ht
  · rename_i hr
    exact ⟨hr, (Option.some.inj ht).symm⟩
  all_goals cases ht

/-- The execute hook: `Ok`, or an exception. -/
theorem runExecuteHook_cases {i : Inst} {s t : State} {k : Option Nat}
    (ht : runExecuteHook i s = some (k, t)) :
    t = applyHook s (callHook .execute i s)
    ∧ (callHook .execute i s).result = k.elim .ok .syncException := by
  unfold runExecuteHook at ht
  generalize callHook .execute i s = out at ht ⊢
  dsimp only at ht
  split at ht
  all_goals cases ht
  all_goals exact ⟨rfl, by assumption⟩

/-- The fetch hook: `Ok`, or a breakpoint. -/
theorem runFetchHook_cases {i i' : Inst} {s t : State} {b : Bool}
    (ht : runFetchHook i s = some (b, i', t)) :
    t = applyHook s (callHook .fetch i s) ∧ i' = { i with pred := (callHook .fetch i s).pred }
    ∧ (callHook .fetch i s).result = (if b then .breakpoint else .ok) := by
  unfold runFetchHook at ht
  generalize callHook .fetch i s = out at ht ⊢
  dsimp only at ht
  split at ht
  all_goals cases ht
  all_goals exact ⟨rfl, rfl, by assumption⟩

/-- The decode hook: it lets the instruction proceed, redirects, or reports a hazard that changed neither
the register file nor the predictor. -/
theorem runDecodeHook_cases {i : Inst} {s t : State} {a : DecodeAnswer}
    (ht : runDecodeHook i s = some (a, t)) :
    t = applyHook s (callHook .decode i s)
    ∧ ((a = .proceed ∧ (callHook .decode i s).result = .ok)
      ∨ (∃ target, a = .redirect target ∧ (callHook .decode i s).result = .redirect target)
      ∨ ((a = .stall .raw ∨ a = .stall .waw) ∧ t.regs = s.regs ∧ t.pred = s.pred)) := by
  unfold runDecodeHook at ht
  generalize callHook .decode i s = out at ht ⊢
  dsimp only at ht
  split at ht
  case h_1 hr => cases ht; exact ⟨rfl, .inl ⟨rfl, hr⟩⟩
  case h_2 target hr => cases ht; exact ⟨rfl, .inr (.inl ⟨target, rfl, hr⟩)⟩
  case h_3 =>
    unfold hazardAnswer at ht
    dsimp only at ht
    split at ht
    · cases ht; exact ⟨rfl, .inr (.inr ⟨.inl rfl, by assumption⟩)⟩
    · cases ht
  case h_4 =>
    unfold hazardAnswer at ht
    dsimp only at ht
    split at ht
    · cases ht; exact ⟨rfl, .inr (.inr ⟨.inr rfl, by assumption⟩)⟩
    · cases ht
  all_goals cases ht

/-- A hook that answers `res` and changes nothing leaves the state as it is. -/
@[simp] theorem applyHook_hookOnly (i : Inst) (s : State) (res : HookResult) :
    applyHook s (hookOnly i s.collab res) = s := rfl

/-- The accessMemory hook of a conforming instruction changes nothing (R189). -/
theorem runOkHook_accessMemory {i : Inst} {c : Conforming} (s : State) (hb : i.behaviour = .conforming c) :
    runOkHook .accessMemory i s = some s := by
  simp [runOkHook, callHook, hb, conformingHook, hookOnly]
  rfl

/-- The writeback hook of a conforming instruction writes its destination and lowers its semaphore (R189). -/
theorem runOkHook_writeback {i : Inst} {c : Conforming} (s : State) (hb : i.behaviour = .conforming c) :
    runOkHook .writeback i s = some { s with
      regs := match c.dest with
        | none => s.regs
        | some d => setRegValue (setRegSem s.regs d (regSem s.regs d - 1)) d c.value } := by
  cases hd : c.dest <;>
    simp [runOkHook, callHook, hb, conformingHook, conformingWriteback, hookOnly, hd, applyHook, applyRegEffect]

/-- The execute hook of a conforming instruction reports its exception, if it has one, and changes nothing. -/
theorem runExecuteHook_conforming {i : Inst} {c : Conforming} (s : State)
    (hb : i.behaviour = .conforming c) : runExecuteHook i s = some (c.exception, s) := by
  cases he : c.exception <;>
    simp [runExecuteHook, callHook, hb, conformingHook, hookOnly, he, applyHook]

/-- The fetch hook of a conforming instruction keeps the prediction it asks for (R145, R190). -/
theorem runFetchHook_conforming {i : Inst} {c : Conforming} (s : State)
    (hb : i.behaviour = .conforming c) :
    runFetchHook i s = some (c.breakpoint,
      if c.control.predicts then { i with pred := bpPredict s.params s.pred i.addr } else i, s) := by
  obtain ⟨ref, addr, cls, behaviour, pred⟩ := i
  subst hb
  simp only [runFetchHook, callHook, conformingHook, conformingFetch]
  cases c.breakpoint <;> cases c.control.predicts <;> rfl

end Sys2Proof.Machine
end

