-- ==== Sys2Proof/Laws/Stages.lean ====
section
/-! SUPPORT. What each stage of PE.STEP can do, said once: if the stage answers `f`, then one of these cases
holds. Later proofs cite these lemmas instead of unfolding a stage. -/

namespace Sys2Proof.Machine

/-- WB stage, first half (R192). -/
theorem consumeWriteback_cases {s w : State} (h : consumeWriteback s = some w) :
    (s.slots.writeback.real = false ∧ w = { s with slots := { s.slots with writeback := .empty } })
    ∨ (∃ i, s.slots.writeback = .instr i ∧ i.isTerminating = true
        ∧ w = { s with slots := { s.slots with writeback := .empty }, term := some i })
    ∨ ∃ i t, s.slots.writeback = .instr i ∧ i.isTerminating = false
        ∧ runOkHook .writeback i { s with slots := { s.slots with writeback := .empty } } = some t
        ∧ w = { t with cnt := { t.cnt with instructions := t.cnt.instructions + 1 } } := by
  unfold consumeWriteback at h
  dsimp only at h
  split at h
  case h_1 hw => cases h; exact .inl ⟨by simp [hw, Slot.real], rfl⟩
  case h_2 hw => cases h; exact .inl ⟨by simp [hw, Slot.real], rfl⟩
  case h_3 i hw =>
    split at h
    · rename_i ht
      cases h
      exact .inr (.inl ⟨i, hw, ht, rfl⟩)
    · rename_i ht
      obtain ⟨t, h1, h2⟩ := Option.map_eq_some_iff.1 h
      exact .inr (.inr ⟨i, t, hw, by simpa using ht, h1, h2.symm⟩)

/-- WB stage (R192): it breaks off, goes on with `slot[WB]` consumed, or halts. -/
theorem wbStage_cases {c : Cycle} {f : Flow} (hf : wbStage c = f) :
    f = .breach ∨ ∃ w, consumeWriteback c.s = some w
      ∧ ((f = .go { c with s := w }
          ∧ (w.term = none ∨ trackerEmpty w.fu = false ∨ w.slots.memory.real = true))
        ∨ ∃ h t, w.term = some h ∧ trackerEmpty w.fu = true ∧ w.slots.memory.real = false
          ∧ runOkHook .writeback h w = some t
          ∧ f = .ends { s := { t with cnt := { t.cnt with instructions := t.cnt.instructions + 1 }
                                      term := none
                                      status := .halted }
                        res := { c.res with halt := true } }) := by
  subst hf
  unfold wbStage
  split
  · exact .inl rfl
  · rename_i w hw
    unfold retireTerminating
    dsimp only
    split
    · rename_i ht
      exact .inr ⟨w, hw, .inl ⟨rfl, .inl ht⟩⟩
    · rename_i h ht
      split
      · rename_i hc
        simp only [Bool.and_eq_true, Bool.not_eq_true'] at hc
        split
        · exact .inl rfl
        · rename_i t hr
          exact .inr ⟨w, hw, .inr ⟨h, t, ht, hc.1, hc.2, hr, rfl⟩⟩
      · rename_i hc
        refine .inr ⟨w, hw, .inl ⟨rfl, .inr ?_⟩⟩
        cases h1 : trackerEmpty w.fu <;> cases h2 : w.slots.memory.real <;> simp_all

/-- MEM stage (R194): it breaks off, or goes on with `slot[MEM]` moved to `slot[WB]`. -/
theorem memStage_cases {c : Cycle} {f : Flow} (hf : memStage c = f) :
    f = .breach ∨ ∃ t, f = .go { c with s := t }
      ∧ ((c.s.slots.memory = .empty ∧ t = c.s)
        ∨ (c.s.slots.memory = .bubble ∧ t = moveToWriteback c.s)
        ∨ ∃ i u, c.s.slots.memory = .instr i ∧ runOkHook .accessMemory i c.s = some u
          ∧ t = moveToWriteback u) := by
  subst hf
  unfold memStage
  split
  · rename_i hm
    exact .inr ⟨c.s, rfl, .inl ⟨hm, rfl⟩⟩
  · rename_i hm
    exact .inr ⟨_, rfl, .inr (.inl ⟨hm, rfl⟩)⟩
  · rename_i i hm
    split
    · exact .inl rfl
    · rename_i u hu
      exact .inr ⟨_, rfl, .inr (.inr ⟨i, u, hm, hu, rfl⟩)⟩

/-- A synchronous exception (R197, R240): masked or deferred it is only recorded, immediate it ends the
step and sets the latch. -/
theorem raiseSync_cases {c : Cycle} {k : Option Nat} {f : Flow} (hf : raiseSync c k = f) :
    (∃ m y, f = .go { c with res := { c.res with masked := m, sync := y } }
      ∧ (k = none → m = c.res.masked ∧ y = c.res.sync)
      ∧ ∀ kind, k = some kind →
          (c.s.cfg.syncMasked = true ∧ m = some kind ∧ y = c.res.sync)
          ∨ (c.s.cfg.syncMasked = false ∧ c.s.cfg.syncTerminate = false ∧ m = c.res.masked ∧ y = some kind))
    ∨ ∃ kind, k = some kind ∧ c.s.cfg.syncMasked = false ∧ c.s.cfg.syncTerminate = true
      ∧ f = .ends { s := { c.s with aborted := true },
                    res := { c.res with sync := some kind, syncImmediate := true } } := by
  subst hf
  cases k with
  | none => exact .inl ⟨_, _, rfl, fun _ => ⟨rfl, rfl⟩, fun _ h => by cases h⟩
  | some kind =>
    simp only [raiseSync]
    split
    · rename_i hm
      exact .inl ⟨_, _, rfl, fun h => (by cases h), fun _ h => by cases h; exact .inl ⟨hm, rfl, rfl⟩⟩
    · rename_i hm
      split
      · rename_i ht
        exact .inl ⟨_, _, rfl, fun h => (by cases h), fun _ h => by
          cases h; exact .inr ⟨by simpa using hm, by simpa using ht, rfl, rfl⟩⟩
      · rename_i ht
        exact .inr ⟨kind, rfl, by simpa using hm, by simpa using ht, rfl⟩

/-- EX stage (R195): it breaks off; nothing real executes and `slot[EX]` moves on; or an instruction
executes, and after its exception's policy the ready FP instruction or `slot[EX]` moves to `slot[MEM]`. -/
theorem exStage_cases {c : Cycle} {f : Flow} (hf : exStage c = f) :
    f = .breach
    ∨ (fuPeek c.s.fu = none ∧ c.s.slots.execute.real = false ∧ f = moveToMemory c)
    ∨ (∃ i k t, fuPeek c.s.fu = none ∧ c.s.slots.execute = .instr i
        ∧ runExecuteHook i c.s = some (k, t)
        ∧ f = (raiseSync { c with s := t } k).andThen moveToMemory)
    ∨ ∃ i k t, fuPeek c.s.fu = some i ∧ runExecuteHook i c.s = some (k, t)
        ∧ f = (raiseSync { c with s := t } k).andThen (exitToMemory i) := by
  subst hf
  unfold exStage executeInst
  split
  · rename_i i hp
    split
    · exact .inl rfl
    · rename_i k t ht
      exact .inr (.inr (.inr ⟨i, k, t, hp, ht, rfl⟩))
  · rename_i hp
    split
    · rename_i he
      exact .inr (.inl ⟨hp, by simp [he, Slot.real], rfl⟩)
    · rename_i he
      exact .inr (.inl ⟨hp, by simp [he, Slot.real], rfl⟩)
    · rename_i i he
      split
      · exact .inl rfl
      · rename_i k t ht
        exact .inr (.inr (.inl ⟨i, k, t, hp, he, ht, rfl⟩))

/-- How the ID stage can place the instruction of `slot[ID]` (R199, R201): into its free unit, or into
`slot[EX]` when that holds nothing real. -/
inductive Placement (s : State) (i : Inst) : (State → State) → Prop where
  | unit (u : FUnit) (hu : i.fpUnit = some u) (hc : canAdmit s.fu u = true) :
      Placement s i (placeInUnit i u)
  | execute (hu : i.fpUnit = none) (he : s.slots.execute.real = false) :
      Placement s i (placeInExecute i)

/-- ID stage (R199 to R203): it breaks off, stalls for a missing resource or a hazard, redirects, or goes on
to the next stage. -/
theorem idStage_cases {next : NextStage} {c : Cycle} {f : Flow} (hf : idStage next c = f) :
    f = .breach
    ∨ (c.s.slots.decode = .empty ∧ f = next c)
    ∨ (c.s.slots.decode = .bubble ∧ c.s.slots.execute.real = true ∧ f = stallCycle c .ex)
    ∨ (c.s.slots.decode = .bubble ∧ c.s.slots.execute.real = false
        ∧ f = next { c with s := placeBubble c.s })
    ∨ ∃ i, c.s.slots.decode = .instr i
      ∧ ((∃ k, f = stallCycle c k
            ∧ ((i.fpUnit = none ∧ c.s.slots.execute.real = true ∧ k = .ex)
              ∨ ∃ u, i.fpUnit = some u ∧ canAdmit c.s.fu u = false
                ∧ k = (match u with | .divider => .divider | .adder => .funit | .multiplier => .funit)))
        ∨ ∃ place, Placement c.s i place
          ∧ ∃ a t, runDecodeHook i c.s = some (a, t)
            ∧ ((∃ k, a = .stall k ∧ f = stallCycle { c with s := t } k)
              ∨ (a = .proceed ∧ f = next { c with s := place t })
              ∨ ∃ target, a = .redirect target ∧ f = redirectCycle { c with s := place t } target)) := by
  subst hf
  unfold idStage
  split
  · rename_i hd
    exact .inr (.inl ⟨hd, rfl⟩)
  · rename_i hd
    split
    · rename_i he
      exact .inr (.inr (.inl ⟨hd, he, rfl⟩))
    · rename_i he
      exact .inr (.inr (.inr (.inl ⟨hd, by simpa using he, rfl⟩)))
  · rename_i i hd
    have hplace : ∀ place, Placement c.s i place →
        decodeAndPlace i place next c = .breach
        ∨ ∃ a t, runDecodeHook i c.s = some (a, t)
            ∧ ((∃ k, a = .stall k ∧ decodeAndPlace i place next c = stallCycle { c with s := t } k)
              ∨ (a = .proceed ∧ decodeAndPlace i place next c = next { c with s := place t })
              ∨ ∃ target, a = .redirect target
                ∧ decodeAndPlace i place next c = redirectCycle { c with s := place t } target) := by
      intro place _
      unfold decodeAndPlace
      split
      · exact .inl rfl
      · rename_i k t ht
        exact .inr ⟨_, t, ht, .inl ⟨k, rfl, rfl⟩⟩
      · rename_i t ht
        exact .inr ⟨_, t, ht, .inr (.inl ⟨rfl, rfl⟩)⟩
      · rename_i target t ht
        exact .inr ⟨_, t, ht, .inr (.inr ⟨target, rfl, rfl⟩)⟩
    split
    · rename_i u hu
      unfold decodeFp
      split
      · rename_i hc
        rcases hplace _ (.unit u hu hc) with h | h
        · exact .inl h
        · exact .inr (.inr (.inr (.inr ⟨i, hd, .inr ⟨_, .unit u hu hc, h⟩⟩)))
      · rename_i hc
        exact .inr (.inr (.inr (.inr ⟨i, hd, .inl ⟨_, rfl, .inr ⟨u, hu, by simpa using hc, rfl⟩⟩⟩)))
    · rename_i hu
      unfold decodeInt
      split
      · rename_i he
        exact .inr (.inr (.inr (.inr ⟨i, hd, .inl ⟨_, rfl, .inl ⟨hu, he, rfl⟩⟩⟩)))
      · rename_i he
        have hp := Placement.execute hu (by simpa using he)
        rcases hplace _ hp with h | h
        · exact .inl h
        · exact .inr (.inr (.inr (.inr ⟨i, hd, .inr ⟨_, hp, h⟩⟩)))

/-- IF stage (R205 to R207): it breaks off, or goes on with a bubble in `slot[ID]` when not RUNNING, and with
the content of `slot[IF]` there and the next instruction fetched when RUNNING. -/
theorem ifStage_cases {c : Cycle} {f : Flow} (hf : ifStage c = f) :
    f = .breach
    ∨ (c.s.status ≠ .running ∧ f = .go { c with s := { c.s with slots := { c.s.slots with decode := .bubble } } })
    ∨ (c.s.status = .running ∧ c.s.slots.fetch.real = false
        ∧ f = .go { c with s := advanceFetch c.s.slots.fetch c.s })
    ∨ ∃ i b i' t, c.s.status = .running ∧ c.s.slots.fetch = .instr i
        ∧ runFetchHook i c.s = some (b, i', t)
        ∧ f = .go { s := advanceFetch (.instr i') t
                    res := { c.res with breakpoint := c.res.breakpoint || b } } := by
  subst hf
  unfold ifStage
  split
  · rename_i hr
    split
    · rename_i hs
      exact .inr (.inr (.inl ⟨hr, by simp [hs, Slot.real], by rw [hs]⟩))
    · rename_i hs
      exact .inr (.inr (.inl ⟨hr, by simp [hs, Slot.real], by rw [hs]⟩))
    · rename_i i hs
      split
      · exact .inl rfl
      · rename_i b i' t ht
        exact .inr (.inr (.inr ⟨i, b, i', t, hr, hs, ht, rfl⟩))
  · rename_i hr
    exact .inr (.inl ⟨hr, rfl⟩)

/-- A redirect (R203): `slot[ID]` is a bubble and `pc` the target, or, while RUNNING, the instruction at the
target is fetched. -/
theorem redirectCycle_cases {c : Cycle} {target : Addr} {f : Flow} (hf : redirectCycle c target = f) :
    ∃ u, f = .ends { s := u, res := { c.res with redirect := some target } }
      ∧ ((c.s.status = .running
          ∧ u = fetchNext { c.s with slots := { c.s.slots with decode := .bubble }, pc := target })
        ∨ (c.s.status ≠ .running
          ∧ u = { c.s with slots := { c.s.slots with decode := .bubble }, pc := target })) := by
  subst hf
  unfold redirectCycle
  dsimp only
  split
  · rename_i h
    exact ⟨_, rfl, .inl ⟨h, rfl⟩⟩
  · rename_i h
    exact ⟨_, rfl, .inr ⟨h, rfl⟩⟩

/-- PE.STEP (R191): it is turned away, it is refused with nothing changed, or it answers with the record and
the state of a cycle. -/
theorem execPeStep_cases {s t : State} (h : exec .peStep s = .next t) :
    (s.status.steps = false
      ∧ t = s.answer .pipelineNotRunning (.step { StepResult.init with notRunning := true }))
    ∨ (t = s.refuse ∧ (s.aborted = true ∨ runCycle s = .breach))
    ∨ (s.status.steps = true ∧ s.aborted = false
      ∧ ∃ c, (runCycle s = .go c ∨ runCycle s = .ends c) ∧ t = c.s.done (.step c.res)) := by
  simp only [exec, execPeStep] at h
  split at h
  · rename_i hs
    cases h
    exact .inl ⟨by simpa using hs, rfl⟩
  · rename_i hs
    split at h
    · rename_i ha
      cases h
      exact .inr (.inl ⟨rfl, .inl ha⟩)
    · rename_i ha
      split at h
      · rename_i c hc
        cases h
        exact .inr (.inr ⟨by simpa using hs, by simpa using ha, c, .inl hc, rfl⟩)
      · rename_i c hc
        cases h
        exact .inr (.inr ⟨by simpa using hs, by simpa using ha, c, .inr hc, rfl⟩)
      · rename_i hb
        cases h
        exact .inr (.inl ⟨rfl, .inr hb⟩)

/-- A PE.STEP that answers with a record was accepted and ran a cycle. -/
theorem stepped_cycle {s t : State} {r : StepResult} (h : exec .peStep s = .next t)
    (hr : t.response = { status := .ok, result := .step r }) :
    s.status.steps = true ∧ s.aborted = false
    ∧ ∃ c, (runCycle s = .go c ∨ runCycle s = .ends c) ∧ t = c.s.done (.step c.res) ∧ c.res = r := by
  rcases execPeStep_cases h with ⟨_, rfl⟩ | ⟨rfl, _⟩ | ⟨h1, h2, c, hc, rfl⟩
  · simp at hr
  · simp at hr
  · exact ⟨h1, h2, c, hc, rfl, by simpa using hr⟩

@[simp] theorem Flow.andThen_go {f : Flow} {k : Cycle → Flow} {c : Cycle} :
    f.andThen k = .go c ↔ ∃ d, f = .go d ∧ k d = .go c := by
  cases f <;> simp [Flow.andThen]

@[simp] theorem Flow.andThen_ends {f : Flow} {k : Cycle → Flow} {c : Cycle} :
    f.andThen k = .ends c ↔ f = .ends c ∨ ∃ d, f = .go d ∧ k d = .ends c := by
  cases f <;> simp [Flow.andThen]

@[simp] theorem Flow.andThen_breach {f : Flow} {k : Cycle → Flow} :
    f.andThen k = .breach ↔ f = .breach ∨ ∃ d, f = .go d ∧ k d = .breach := by
  cases f <;> simp [Flow.andThen]

/-- The MEM stage never ends the step (R194). -/
theorem memStage_not_ends {c d : Cycle} : memStage c ≠ .ends d := by
  intro h
  rcases memStage_cases h with h | ⟨_, h, _⟩ <;> cases h

/-- The stages composed, once: what holds of every cycle that ends a step, when each stage leads from what
the stage before it established. -/
theorem runCycle_stages {s : State} {c : Cycle} (P₁ P₂ P₃ Q : Cycle → Prop)
    (wb : ∀ d, wbStage (beginCycle s) = .go d → P₁ d)
    (wbEnds : ∀ d, wbStage (beginCycle s) = .ends d → Q d)
    (mem : ∀ b d, P₁ b → memStage b = .go d → P₂ d)
    (ex : ∀ b d, P₂ b → exStage b = .go d → P₃ d)
    (exEnds : ∀ b d, P₂ b → exStage b = .ends d → Q d)
    (id : ∀ b d, P₃ b → idStage ifStage b = .go d ∨ idStage ifStage b = .ends d → Q d)
    (h : runCycle s = .go c ∨ runCycle s = .ends c) : Q c := by
  unfold runCycle at h
  simp only [Flow.andThen_go, Flow.andThen_ends] at h
  rcases h with ⟨d₃, ⟨d₂, ⟨d₁, h₁, h₂⟩, h₃⟩, h₄⟩ | ((h₁ | ⟨d₁, h₁, h₂⟩) | ⟨d₂, ⟨d₁, h₁, h₂⟩, h₃⟩) | ⟨d₃, ⟨d₂, ⟨d₁, h₁, h₂⟩, h₃⟩, h₄⟩
  · exact id _ _ (ex _ _ (mem _ _ (wb _ h₁) h₂) h₃) (.inl h₄)
  · exact wbEnds _ h₁
  · exact absurd h₂ memStage_not_ends
  · exact exEnds _ _ (mem _ _ (wb _ h₁) h₂) h₃
  · exact id _ _ (ex _ _ (mem _ _ (wb _ h₁) h₂) h₃) (.inr h₄)

end Sys2Proof.Machine
end

