-- ==== Sys2Proof/Laws/Conforming.lean ====
section
/-! SUPPORT. What a cycle does up to its ID stage when the instructions in flight conform: the stages
composed once, with what the ID stage finds. -/

namespace Sys2Proof.Machine

/-- An instruction that conforms, with its data. -/
theorem Inst.conforms_iff {i : Inst} : i.conforms = true ↔ ∃ c, i.behaviour = .conforming c := by
  unfold Inst.conforms
  cases i.behaviour <;> simp

/-- The instruction a slot holds conforms when every instruction in flight does. -/
theorem State.AllConform.slot {s : State} (h : s.AllConform) {i : Inst} (n : SlotName)
    (hs : slotOf s.slots n = .instr i) : ∃ c, i.behaviour = .conforming c := by
  rw [← Inst.conforms_iff]
  have := h (some i)
  cases n <;> simp [slotOf] at hs <;> simpa [State.places, hs, Slot.inst] using this

/-- The content of the final stage of a unit is one of its stages. -/
theorem finalStage_mem {l : List (Option Inst)} {i : Inst} (h : finalStage l = some i) : some i ∈ l := by
  unfold finalStage at h
  rw [Option.join_eq_some_iff] at h
  exact List.mem_of_getLast? h

/-- What FU.EXIT would return is in the tracker. -/
theorem fuPeek_mem {t : Tracker} {i : Inst} (h : fuPeek t = some i) : some i ∈ t.div :: (t.add ++ t.mul) := by
  unfold fuPeek at h
  split at h
  · simp [h]
  · have := finalStage_mem h
    simp [this]
  · have := finalStage_mem h
    simp [this]
  · cases h

/-- The instruction that executes conforms when every instruction in flight does. -/
theorem State.AllConform.executing {s : State} (h : s.AllConform) {i : Inst}
    (hs : s.executing = some i) : ∃ c, i.behaviour = .conforming c := by
  unfold State.executing at hs
  split at hs
  · rename_i f hp
    cases hs
    rw [← Inst.conforms_iff]
    have := fuPeek_mem hp
    exact h (some i) (by simp only [State.places, List.mem_cons] at this ⊢; tauto)
  · cases he : s.slots.execute with
    | empty => simp [he, Slot.inst] at hs
    | bubble => simp [he, Slot.inst] at hs
    | instr j =>
      simp only [he, Slot.inst, Option.some.injEq] at hs
      exact hs ▸ h.slot .execute he

/-- With no unit ready, FU.EXIT changes nothing. -/
theorem fuExit_of_peek_none {t : Tracker} (h : fuPeek t = none) : fuExit t = t := by
  unfold fuPeek exitUnit at h
  unfold fuExit exitUnit
  split_ifs at h ⊢ with h1 h2 h3
  · simp [unitReady, h] at h1
  · simp [unitReady, h] at h2
  · simp [unitReady, h] at h3
  · rfl

/-- The state after `slot[WB]` is consumed, its instruction conforming: what retires is written back and
counted, and a terminating instruction waits in TERM. -/
def afterWriteback (s : State) : State :=
  { s with
    slots := { s.slots with writeback := .empty }
    regs := s.regsAtDecode
    term := if s.slots.writeback.terminating then s.slots.writeback.inst else s.term
    cnt := { s.cnt with instructions := s.cnt.instructions + s.slots.writeback.retires.toNat } }

/-- The first half of the WB stage, for a conforming instruction in `slot[WB]`. -/
theorem consumeWriteback_conforming {s : State}
    (hc : ∀ i, s.slots.writeback = .instr i → ∃ k, i.behaviour = .conforming k) :
    consumeWriteback s = some (afterWriteback s) := by
  unfold consumeWriteback
  cases hw : s.slots.writeback with
  | empty => simp [afterWriteback, State.regsAtDecode, hw, Slot.retires, Slot.terminating, Slot.real]
  | bubble => simp [afterWriteback, State.regsAtDecode, hw, Slot.retires, Slot.terminating, Slot.real]
  | instr i =>
    obtain ⟨k, hk⟩ := hc i hw
    cases ht : i.isTerminating
    · simp only [ht, Bool.false_eq_true, if_false, runOkHook_writeback _ hk, Option.map_some]
      rcases hd : k.dest with _ | d <;>
        simp [afterWriteback, State.regsAtDecode, writtenRegs, hw, Slot.retires, Slot.terminating, Slot.real,
          hk, hd, ht]
    · simp [afterWriteback, State.regsAtDecode, hw, Slot.retires, Slot.terminating, Slot.inst, Slot.real, ht]

/-- WB stage of a cycle that does not halt: what `slot[WB]` holds is consumed, and nothing else happens. -/
theorem wbStage_conforming {c : Cycle} (hn : c.s.NotHalting)
    (hc : ∀ i, c.s.slots.writeback = .instr i → ∃ k, i.behaviour = .conforming k) :
    wbStage c = .go { c with s := afterWriteback c.s } := by
  unfold wbStage retireTerminating
  rw [consumeWriteback_conforming hc]
  simp only [afterWriteback]
  rcases hn with ⟨h1, h2⟩ | h
  · simp [h1, h2]
  · have hf : (trackerEmpty c.s.fu && !c.s.slots.memory.real) = false := by
      rcases h with h | h <;> simp [h]
    split
    · rfl
    · simp [hf]

/-- MEM stage after a consumed `slot[WB]`: the content of `slot[MEM]` moves on. -/
theorem memStage_conforming {c : Cycle} (hw : c.s.slots.writeback = .empty)
    (hc : ∀ i, c.s.slots.memory = .instr i → ∃ k, i.behaviour = .conforming k) :
    memStage c = .go { c with s := moveToWriteback c.s } := by
  unfold memStage
  cases hm : c.s.slots.memory with
  | empty =>
    obtain ⟨s, res⟩ := c
    obtain ⟨_, _, _, ⟨_, _, _, _, _⟩, _⟩ := s
    simp only at hw hm
    subst hw hm
    rfl
  | bubble => rfl
  | instr i =>
    obtain ⟨k, hk⟩ := hc i hm
    simp [runOkHook_accessMemory _ hk]

/-- The exception that the executing instruction of a cycle reports, if it conforms. -/
def State.exception (s : State) : Option Nat :=
  match s.executing with
  | none => none
  | some e =>
    match e.behaviour with
    | .oracle => none
    | .conforming c => c.exception

/-- An exception that is not immediate: the policy masks or defers it, or there is none. -/
theorem State.NotCutShort.exception {s : State} (h : s.NotCutShort) :
    s.cfg.syncMasked = true ∨ s.cfg.syncTerminate = false ∨ s.exception = none := by
  refine h.imp_right (Or.imp_right fun h => ?_)
  unfold State.exception
  cases he : s.executing with
  | none => rfl
  | some e =>
    simp only [he, Option.any_some, Inst.excepts] at h
    cases hb : e.behaviour with
    | oracle => simp [hb]
    | conforming c => simpa [hb] using h

/-- EX stage when the executing instruction conforms and its exception, if any, is not immediate. -/
theorem exStage_conforming {c : Cycle} (hp : c.s.NotCutShort)
    (hc : ∀ e, c.s.executing = some e → ∃ k, e.behaviour = .conforming k) :
    ∃ d, exStage c = .go d
      ∧ d.s = { c.s with
          fu := c.s.trackerAtDecode
          cnt := if (fuPeek c.s.fu).isSome && c.s.slots.execute.real then
              { c.s.cnt with memory := c.s.cnt.memory + 1 } else c.s.cnt
          slots := match fuPeek c.s.fu with
            | some f => { c.s.slots with memory := .instr f }
            | none => { c.s.slots with memory := c.s.slots.execute, execute := .empty } }
      ∧ (∃ m y, d.res = { c.res with
          masked := m, sync := y,
          memStall := c.res.memStall || ((fuPeek c.s.fu).isSome && c.s.slots.execute.real) }
        ∧ (c.s.exception = none → m = c.res.masked ∧ y = c.res.sync)
        ∧ ∀ kind, c.s.exception = some kind →
            (c.s.cfg.syncMasked = true → m = some kind ∧ y = c.res.sync)
            ∧ (c.s.cfg.syncMasked = false → m = c.res.masked ∧ y = some kind)) := by
  have hraise : ∀ k : Option Nat, c.s.exception = k → ∃ m y, raiseSync c k
      = .go { c with res := { c.res with masked := m, sync := y } }
        ∧ (k = none → m = c.res.masked ∧ y = c.res.sync)
        ∧ ∀ kind, k = some kind →
            (c.s.cfg.syncMasked = true → m = some kind ∧ y = c.res.sync)
            ∧ (c.s.cfg.syncMasked = false → m = c.res.masked ∧ y = some kind) := by
    intro k hx
    rcases raiseSync_cases (c := c) (k := k) rfl with ⟨m, y, h1, h2, h3⟩ | ⟨kind, _, h2, h3, _⟩
    · refine ⟨m, y, h1, h2, fun kind hk => ?_⟩
      rcases h3 kind hk with ⟨a, b, d⟩ | ⟨a, _, b, d⟩ <;> simp [a, b, d]
    · rcases hp.exception with h | h | h
      · simp [h] at h2
      · simp [h] at h3
      · simp_all
  unfold exStage executeInst
  cases hf : fuPeek c.s.fu with
  | some f =>
    have he : c.s.executing = some f := by simp [State.executing, hf]
    obtain ⟨k, hk⟩ := hc f he
    have hx : c.s.exception = k.exception := by simp [State.exception, he, hk]
    obtain ⟨m, y, h1, h2, h3⟩ := hraise k.exception hx
    simp only [runExecuteHook_conforming _ hk, h1, Flow.andThen, exitToMemory]
    refine ⟨_, rfl, ?_, m, y, ?_, hx ▸ h2, hx ▸ h3⟩
    · rfl
    · cases c.s.slots.execute.real <;> simp
  | none =>
    have he : c.s.executing = c.s.slots.execute.inst := by simp [State.executing, hf]
    have hx := fuExit_of_peek_none hf
    cases hs : c.s.slots.execute with
    | empty =>
      refine ⟨_, rfl, ?_, c.res.masked, c.res.sync, ?_, fun _ => ⟨rfl, rfl⟩, fun kind h => ?_⟩
      · simp [hs, State.trackerAtDecode, hx]
      · simp
      · simp [State.exception, he, hs, Slot.inst] at h
    | bubble =>
      refine ⟨_, rfl, ?_, c.res.masked, c.res.sync, ?_, fun _ => ⟨rfl, rfl⟩, fun kind h => ?_⟩
      · simp [hs, State.trackerAtDecode, hx]
      · simp
      · simp [State.exception, he, hs, Slot.inst] at h
    | instr i =>
      have he' : c.s.executing = some i := by simp [he, hs, Slot.inst]
      obtain ⟨k, hk⟩ := hc i he'
      have hxx : c.s.exception = k.exception := by simp [State.exception, he', hk]
      obtain ⟨m, y, h1, h2, h3⟩ := hraise k.exception hxx
      simp only [runExecuteHook_conforming _ hk, h1, Flow.andThen, moveToMemory]
      refine ⟨_, rfl, ?_, m, y, ?_, hxx ▸ h2, hxx ▸ h3⟩
      · simp [hs, State.trackerAtDecode, hx]
      · simp

/-- A cycle with conforming instructions that neither halts nor is cut short reaches its ID stage: the
tracker has exited and advanced, the register file is as the writeback left it, `slot[EX]` is free unless
an exit held it, and nothing else that the later stages read has changed. -/
theorem cycle_reaches_decode {s : State} (ha : s.AllConform) (hn : s.NotHalting) (hp : s.NotCutShort) :
    ∃ d, runCycle s = idStage ifStage d
      ∧ d.s.slots.fetch = s.slots.fetch ∧ d.s.slots.decode = s.slots.decode
      ∧ d.s.slots.execute = (if (fuPeek s.fu).isSome then s.slots.execute else .empty)
      ∧ d.s.slots.writeback = s.slots.memory
      ∧ d.s.slots.memory = (match fuPeek s.fu with | some f => .instr f | none => s.slots.execute)
      ∧ d.s.fu = s.trackerAtDecode ∧ d.s.regs = s.regsAtDecode
      ∧ d.s.pred = s.pred ∧ d.s.collab = s.collab ∧ d.s.params = s.params ∧ d.s.pc = s.pc
      ∧ d.s.status = s.status ∧ d.s.term = (afterWriteback s).term ∧ d.s.aborted = s.aborted ∧ d.s.cfg = s.cfg
      ∧ d.s.source = s.source ∧ d.s.inputs = s.inputs ∧ d.s.trace = s.trace
      ∧ d.s.cnt = { s.cnt with
          cycles := s.cnt.cycles + 1
          instructions := s.cnt.instructions + s.slots.writeback.retires.toNat
          memory := s.cnt.memory + ((fuPeek s.fu).isSome && s.slots.execute.real).toNat }
      ∧ ∃ m y, d.res = { StepResult.init with
          masked := m, sync := y, memStall := (fuPeek s.fu).isSome && s.slots.execute.real }
        ∧ (s.exception = none → m = none ∧ y = none)
        ∧ ∀ kind, s.exception = some kind →
            (s.cfg.syncMasked = true → m = some kind ∧ y = none)
            ∧ (s.cfg.syncMasked = false → m = none ∧ y = some kind) := by
  have h1 : wbStage (beginCycle s) = .go { beginCycle s with s := afterWriteback (beginCycle s).s } :=
    wbStage_conforming hn fun i hi => ha.slot .writeback hi
  have h2 := memStage_conforming (c := { beginCycle s with s := afterWriteback (beginCycle s).s }) rfl
    fun i hi => ha.slot .memory hi
  obtain ⟨d, h3, hs, m, y, hr, hr1, hr2⟩ := exStage_conforming
    (c := { beginCycle s with s := moveToWriteback (afterWriteback (beginCycle s).s) }) hp
    fun e he => ha.executing (s := s) he
  refine ⟨d, ?_, ?_⟩
  · unfold runCycle
    rw [h1]
    simp only [Flow.andThen]
    rw [h2]
    simp only
    rw [h3]
  · have hf : (moveToWriteback (afterWriteback (beginCycle s).s)).fu = s.fu := rfl
    have hx : (moveToWriteback (afterWriteback (beginCycle s).s)).slots.execute = s.slots.execute := rfl
    rw [hs]
    refine ⟨?_, ?_, ?_, ?_, ?_, rfl, rfl, rfl, rfl, rfl, rfl, rfl, rfl, rfl, rfl, rfl, rfl, rfl, ?_, ?_⟩
    · simp only [hf]; cases fuPeek s.fu <;> rfl
    · simp only [hf]; cases fuPeek s.fu <;> rfl
    · simp only [hf]; cases fuPeek s.fu <;> rfl
    · simp only [hf]; cases fuPeek s.fu <;> rfl
    · simp only [hf]; cases fuPeek s.fu <;> rfl
    · simp only [hf, hx]
      simp only [moveToWriteback_cnt, afterWriteback, beginCycle]
      by_cases h1 : (fuPeek s.fu).isSome = true <;> by_cases h2 : s.slots.execute.real = true <;>
        simp [h1, h2]
    · exact ⟨m, y, by rw [hr]; simp [beginCycle, StepResult.init, afterWriteback], hr1, hr2⟩

/-- The decode hook of a conforming instruction on a hazard (R187): the stall, and nothing changed. -/
theorem runDecodeHook_hazard {i : Inst} {c : Conforming} {s : State} {k : Stall}
    (hb : i.behaviour = .conforming c) (hk : hazardOf s.regs c = some k) :
    runDecodeHook i s = some (.stall k, s) := by
  unfold hazardOf at hk
  unfold runDecodeHook callHook
  rw [hb]
  simp only [conformingHook, conformingDecode]
  split_ifs at hk with h1 h2
  · cases hk
    rw [if_pos (by simpa using h1)]
    simp [hookOnly, hazardAnswer, applyHook]
  · cases hk
    rw [if_neg (by simpa using h1), if_pos (by simpa [Option.any_eq_true] using h2)]
    simp [hookOnly, hazardAnswer, applyHook]

/-- The register file after a conforming decode without a hazard (R187). -/
def raisedRegs (regs : List Reg) (c : Conforming) : List Reg :=
  match c.dest with
  | none => regs
  | some d => setRegSem regs d (regSem regs d + 1)

/-- The decode hook of a conforming instruction without a hazard (R187, R145): the destination's semaphore
rises, and a jump or a taken branch redirects. -/
theorem runDecodeHook_clear {i : Inst} {c : Conforming} {s : State}
    (hb : i.behaviour = .conforming c) (hk : hazardOf s.regs c = none) :
    runDecodeHook i s = some (match c.control with
      | .sequential => (.proceed, { s with regs := raisedRegs s.regs c })
      | .jump uses target =>
        (.redirect target,
          { s with
            regs := raisedRegs s.regs c
            pred := if uses then bpResolve s.params s.pred i.addr .taken i.pred else s.pred })
      | .branch uses target =>
        (if (nextOutcome s.collab).1 then .redirect target else .proceed,
          { s with
            regs := raisedRegs s.regs c
            pred := if uses then
                bpResolve s.params s.pred i.addr (if (nextOutcome s.collab).1 then .taken else .notTaken) i.pred
              else s.pred
            collab := (nextOutcome s.collab).2 })) := by
  have hraise : (raiseSem s.regs c).foldl applyRegEffect s.regs = raisedRegs s.regs c := by
    unfold raiseSem raisedRegs
    cases c.dest <;> rfl
  unfold hazardOf at hk
  unfold runDecodeHook callHook
  rw [hb]
  simp only [conformingHook, conformingDecode]
  split_ifs at hk with h1 h2
  rw [if_neg (by simpa using h1), if_neg (by simpa [Option.any_eq_false] using h2)]
  cases c.control with
  | sequential => simp [hookOnly, applyHook, hraise]
  | jump uses target => cases uses <;> simp [hookOnly, applyHook, hraise, resolveOf, applyResolve]
  | branch uses target =>
    cases hn : nextOutcome s.collab with
    | mk taken col =>
      cases taken <;> cases uses <;> simp [applyHook, hraise, resolveOf, applyResolve]

end Sys2Proof.Machine
end

