-- ==== Sys2Proof/Laws/Cycle.lean ====
section
/-! SUPPORT. What one cycle can do to the slots, the tracker, TERM, the status and the trace, whatever the
hooks answer: it halts, it is cut short, or it reaches its ID stage, whose outcome is one of five. -/

namespace Sys2Proof.Machine

/-- TERM after the first half of the WB stage (R192). -/
def State.nextTerm (s : State) : Option Inst :=
  if s.slots.writeback.terminating then s.slots.writeback.inst else s.term

/-- The number of instructions the first half of the WB stage retires (R192): one, or none. -/
def State.retiring (s : State) : Nat :=
  if s.slots.writeback.real && !s.slots.writeback.terminating then 1 else 0

/-- The second half of the WB stage retires the terminating instruction (R192). -/
def State.Retires (s : State) : Prop :=
  s.nextTerm.isSome = true ∧ trackerEmpty s.fu = true ∧ s.slots.memory.real = false

/-- The cycle so far has changed none of what only the ID and IF stages change. -/
structure Started (s : State) (b : Cycle) : Prop where
  term : b.s.term = s.nextTerm
  status : b.s.status = s.status
  inputs : b.s.inputs = s.inputs
  retired : b.s.cnt.instructions = s.cnt.instructions + s.retiring
  trace : b.s.trace = s.trace
  params : b.s.params = s.params

/-- The cycle after its WB stage, when it goes on (R192). -/
structure Consumed (s : State) (b : Cycle) : Prop extends Started s b where
  slots : b.s.slots = { s.slots with writeback := .empty }
  fu : b.s.fu = s.fu
  aborted : b.s.aborted = s.aborted
  res : b.res = StepResult.init
  stays : ¬s.Retires

/-- The cycle after its MEM stage (R194). -/
structure Moved (s : State) (b : Cycle) : Prop extends Started s b where
  slots : b.s.slots = { s.slots with memory := .empty, writeback := s.slots.memory }
  fu : b.s.fu = s.fu
  aborted : b.s.aborted = s.aborted
  res : b.res = StepResult.init
  stays : ¬s.Retires

/-- The cycle that an immediate termination cuts short in its EX stage (R197, R240). -/
structure CutShort (s : State) (b : Cycle) : Prop extends Started s b where
  slots : b.s.slots = { s.slots with memory := .empty, writeback := s.slots.memory }
  fu : b.s.fu = s.fu
  aborted : b.s.aborted = true
  stays : ¬s.Retires
  res : b.res.halt = false ∧ b.res.redirect = none ∧ b.res.idStall = none ∧ b.res.syncImmediate = true
    ∧ b.res.memStall = false
  loud : ¬s.ExecutesQuietly

/-- The cycle as its ID stage finds it (R195). -/
structure Reached (s : State) (b : Cycle) : Prop extends Started s b where
  fetch : b.s.slots.fetch = s.slots.fetch
  decode : b.s.slots.decode = s.slots.decode
  execute : b.s.slots.execute = s.heldExecute
  memory : b.s.slots.memory = match fuPeek s.fu with
    | some f => .instr f
    | none => s.slots.execute
  writeback : b.s.slots.writeback = s.slots.memory
  fu : b.s.fu = s.trackerAtDecode
  aborted : b.s.aborted = s.aborted
  stays : ¬s.Retires
  res : b.res.halt = false ∧ b.res.redirect = none ∧ b.res.idStall = none ∧ b.res.syncImmediate = false
    ∧ b.res.memStall = ((fuPeek s.fu).isSome && s.slots.execute.real)
  quiet : s.ExecutesQuietly → b.res.masked = none ∧ b.res.sync = none

/-- What the ID and IF stages leave of the record (R93): all but the stall, the redirect and the
breakpoint. -/
structure KeptRecord (r r' : StepResult) : Prop where
  halt : r'.halt = r.halt
  immediate : r'.syncImmediate = r.syncImmediate
  memStall : r'.memStall = r.memStall
  masked : r'.masked = r.masked
  sync : r'.sync = r.sync

/-- The step that retires the terminating instruction (R192). -/
structure Halts (s : State) (b : Cycle) : Prop where
  slots : b.s.slots = { s.slots with writeback := .empty }
  fu : b.s.fu = s.fu
  term : b.s.term = none
  status : b.s.status = .halted
  aborted : b.s.aborted = s.aborted
  inputs : b.s.inputs = s.inputs
  trace : b.s.trace = s.trace
  retired : b.s.cnt.instructions = s.cnt.instructions + s.retiring + 1
  res : b.res = { StepResult.init with halt := true }
  retires : s.Retires

/-- The state `u` leaves all but the slots, the tracker, the status and the hooks' effects of `b`. -/
structure SameRest (b u : State) : Prop where
  term : u.term = b.term
  aborted : u.aborted = b.aborted
  inputs : u.inputs = b.inputs
  retired : u.cnt.instructions = b.cnt.instructions
  trace : u.trace = b.trace
  params : u.params = b.params

/-- The state `u` after the placement of the content of `slot[ID]` (R199, R201). -/
inductive Placed (b u : State) : Prop where
  | nothing (content : b.slots.decode = .empty) (slots : u.slots = b.slots) (fu : u.fu = b.fu)
      (status : u.status = b.status)
  | bubble (content : b.slots.decode = .bubble) (free : b.slots.execute.real = false)
      (slots : u.slots = { b.slots with execute := .bubble, decode := .empty }) (fu : u.fu = b.fu)
      (status : u.status = b.status)
  | unit (i : Inst) (x : FUnit) (content : b.slots.decode = .instr i) (hi : i.fpUnit = some x)
      (free : canAdmit b.fu x = true) (slots : u.slots = { b.slots with decode := .empty })
      (fu : u.fu = fuAdmit b.params b.fu i x) (status : u.status = b.status)
  | execute (i : Inst) (content : b.slots.decode = .instr i) (hi : i.fpUnit = none)
      (free : b.slots.execute.real = false)
      (slots : u.slots = { b.slots with execute := .instr i, decode := .empty }) (fu : u.fu = b.fu)
      (status : u.status
        = if i.isTerminating && decide (b.status = .running) then .stopping else b.status)

/-- A placement keeps everything else. -/
theorem Placement.placed {s : State} {i : Inst} {place : State → State} (hp : Placement s i place)
    (hd : s.slots.decode = .instr i) (out : HookOut) :
    Placed s (place (applyHook s out)) ∧ SameRest s (place (applyHook s out))
    ∧ (place (applyHook s out)).slots.fetch = s.slots.fetch := by
  cases hp with
  | unit u hu hc => exact ⟨.unit i u hd hu hc rfl rfl rfl, ⟨rfl, rfl, rfl, rfl, rfl, rfl⟩, rfl⟩
  | execute hu he => exact ⟨.execute i hd hu he rfl rfl rfl, ⟨rfl, rfl, rfl, rfl, rfl, rfl⟩, rfl⟩

/-- What the ID stage, and the IF stage behind it, make of the cycle `b` (R199 to R207). -/
inductive DecodeOutcome (b d : Cycle) : Prop where
  | stalled (slots : d.s.slots = { b.s.slots with
        execute := if b.s.slots.execute = .empty then .bubble else b.s.slots.execute })
      (rest : SameRest b.s d.s) (fu : d.s.fu = b.s.fu) (status : d.s.status = b.s.status)
      (stall : d.res.idStall ≠ none) (redirect : d.res.redirect = b.res.redirect) (kept : KeptRecord b.res d.res)
  | held (u : State) (placed : Placed b.s u) (stopped : u.status ≠ .running)
      (slots : d.s.slots = { u.slots with decode := .bubble }) (rest : SameRest b.s d.s)
      (fu : d.s.fu = u.fu) (status : d.s.status = u.status) (stall : d.res.idStall = b.res.idStall)
      (redirect : d.res.redirect = b.res.redirect) (kept : KeptRecord b.res d.res)
  | fetched (u : State) (x : Slot) (y : Inst) (a : Addr) (placed : Placed b.s u)
      (running : u.status = .running) (moved : x.forget = b.s.slots.fetch.forget)
      (slots : d.s.slots = { u.slots with decode := x, fetch := .instr y })
      (rest : SameRest b.s { d.s with trace := b.s.trace }) (trace : d.s.trace = a :: b.s.trace)
      (fu : d.s.fu = u.fu) (status : d.s.status = u.status) (stall : d.res.idStall = b.res.idStall)
      (redirect : d.res.redirect = b.res.redirect) (kept : KeptRecord b.res d.res)
  | turned (u : State) (placed : Placed b.s u) (stopped : u.status ≠ .running)
      (slots : d.s.slots = { u.slots with decode := .bubble }) (rest : SameRest b.s d.s)
      (fu : d.s.fu = u.fu) (status : d.s.status = u.status) (redirect : d.res.redirect.isSome = true)
      (kept : KeptRecord b.res d.res)
  | refetched (u : State) (y : Inst) (a : Addr) (placed : Placed b.s u) (running : u.status = .running)
      (slots : d.s.slots = { u.slots with decode := .bubble, fetch := .instr y })
      (rest : SameRest b.s { d.s with trace := b.s.trace }) (trace : d.s.trace = a :: b.s.trace)
      (fu : d.s.fu = u.fu) (status : d.s.status = u.status) (redirect : d.res.redirect.isSome = true)
      (kept : KeptRecord b.res d.res)

/-- What a cycle can do (R191). -/
inductive CycleOutcome (s : State) (d : Cycle) : Prop where
  | halts (h : Halts s d)
  | cutShort (h : CutShort s d)
  | full (b : Cycle) (h : Reached s b) (o : DecodeOutcome b d)

/-- What the first half of the WB stage leaves (R192). -/
theorem consumeWriteback_started {s w : State} (hw : consumeWriteback (beginCycle s).s = some w) :
    Started s ⟨w, StepResult.init⟩ ∧ w.slots = { s.slots with writeback := .empty } ∧ w.fu = s.fu
    ∧ w.aborted = s.aborted := by
  have hs : (beginCycle s).s.slots = s.slots := rfl
  rcases consumeWriteback_cases hw with ⟨h, rfl⟩ | ⟨i, h, h', rfl⟩ | ⟨i, t, h, h', hr, rfl⟩ <;> rw [hs] at h
  · refine ⟨⟨?_, rfl, rfl, ?_, rfl, rfl⟩, rfl, rfl, rfl⟩
    · cases hc : s.slots.writeback <;> simp_all [State.nextTerm, Slot.real, Slot.terminating] <;> rfl
    · simp [State.retiring, h]; rfl
  · refine ⟨⟨?_, rfl, rfl, ?_, rfl, rfl⟩, rfl, rfl, rfl⟩
    · simp [State.nextTerm, h, Slot.terminating, h', Slot.inst]
    · simp [State.retiring, h, Slot.terminating, h']; rfl
  · obtain ⟨_, rfl⟩ := runOkHook_cases hr
    refine ⟨⟨?_, rfl, rfl, ?_, rfl, rfl⟩, rfl, rfl, rfl⟩
    · simp [State.nextTerm, h, Slot.terminating, h']; rfl
    · simp [State.retiring, h, Slot.terminating, h', Slot.real]; rfl

/-- WB stage: the cycle goes on, or it halts (R192). -/
theorem wbStage_outcome {s : State} {f : Flow} (hf : wbStage (beginCycle s) = f) :
    f = .breach ∨ (∃ b, f = .go b ∧ Consumed s b) ∨ ∃ b, f = .ends b ∧ Halts s b := by
  rcases wbStage_cases hf with h | ⟨w, hw, ⟨h, hst⟩ | ⟨i, t, h1, h2, h3, h4, h⟩⟩
  · exact .inl h
  · obtain ⟨st, hs, hfu, ha⟩ := consumeWriteback_started hw
    refine .inr (.inl ⟨_, h, { st with slots := hs, fu := hfu, aborted := ha, res := rfl, stays := ?_ }⟩)
    rintro ⟨h1, h2, h3⟩
    have ht : w.term = s.nextTerm := st.term
    rcases hst with hst | hst | hst
    · simp [ht ▸ hst] at h1
    · simp [hfu ▸ hst] at h2
    · rw [hs] at hst
      simp [show s.slots.memory.real = true from hst] at h3
  · obtain ⟨st, hs, hfu, ha⟩ := consumeWriteback_started hw
    have ht : w.term = s.nextTerm := st.term
    obtain ⟨_, rfl⟩ := runOkHook_cases h4
    refine .inr (.inr ⟨_, h, hs, hfu, rfl, rfl, ha, st.inputs, st.trace, ?_, rfl, ?_, hfu ▸ h2, ?_⟩)
    · exact congrArg (· + 1) st.retired
    · simp [← ht, h1]
    · rw [hs] at h3
      exact h3

/-- MEM stage (R194). -/
theorem memStage_outcome {s : State} {b d : Cycle} (hb : Consumed s b) (hd : memStage b = .go d) :
    Moved s d := by
  have hs := hb.slots
  rcases memStage_cases hd with h | ⟨t, h, ⟨hm, rfl⟩ | ⟨_, rfl⟩ | ⟨i, u, _, hu, rfl⟩⟩ <;> cases h
  · refine { hb with slots := ?_ }
    rw [hs] at hm ⊢
    simp only at hm
    simp [hm]
  · exact { hb with slots := by simp only [moveToWriteback, hs] }
  · obtain ⟨_, rfl⟩ := runOkHook_cases hu
    exact { hb with slots := by simp only [moveToWriteback, applyHook_slots, hs] }

/-- An exception that lets the cycle go on changes only the record. -/
theorem raiseSync_go {c d : Cycle} {k : Option Nat} (h : raiseSync c k = .go d) :
    d.s = c.s ∧ d.res.halt = c.res.halt ∧ d.res.redirect = c.res.redirect
    ∧ d.res.idStall = c.res.idStall ∧ d.res.syncImmediate = c.res.syncImmediate
    ∧ d.res.memStall = c.res.memStall
    ∧ (k = none → d.res.masked = c.res.masked ∧ d.res.sync = c.res.sync) := by
  rcases raiseSync_cases (c := c) (k := k) rfl with ⟨m, y, hr, hk, _⟩ | ⟨kind, _, _, _, hr⟩ <;>
    rw [hr] at h <;> cases h
  exact ⟨rfl, rfl, rfl, rfl, rfl, rfl, hk⟩

/-- An exception that ends the cycle sets the latch (R240). -/
theorem raiseSync_ends {c d : Cycle} {k : Option Nat} (h : raiseSync c k = .ends d) :
    d.s = { c.s with aborted := true } ∧ d.res.halt = c.res.halt ∧ d.res.redirect = c.res.redirect
    ∧ d.res.idStall = c.res.idStall ∧ d.res.syncImmediate = true ∧ d.res.memStall = c.res.memStall
    ∧ k ≠ none := by
  rcases raiseSync_cases (c := c) (k := k) rfl with ⟨m, y, hr, _⟩ | ⟨kind, hk, _, _, hr⟩ <;>
    rw [hr] at h <;> cases h
  exact ⟨rfl, rfl, rfl, rfl, rfl, rfl, by simp [hk]⟩

/-- The execute hook of the instruction that executes reports nothing when it executes quietly. -/
theorem State.ExecutesQuietly.none {s t u : State} {i : Inst} {k : Option Nat} (hq : s.ExecutesQuietly)
    (he : s.executing = some i) (h : runExecuteHook i t = some (k, u)) : k = none := by
  obtain ⟨c, hc, hx⟩ := hq i he
  rw [runExecuteHook_conforming _ hc] at h
  cases h
  exact hx

/-- EX stage: the ID stage is reached, or the cycle is cut short (R195, R197). -/
theorem exStage_outcome {s : State} {b : Cycle} {f : Flow} (hb : Moved s b) (hf : exStage b = f) :
    f = .breach ∨ (∃ e, f = .go e ∧ Reached s e) ∨ ∃ e, f = .ends e ∧ CutShort s e := by
  obtain ⟨⟨a1, a2, a3, a4, a5, a6⟩, a7, a8, a9, a10, a11⟩ := hb
  rcases exStage_cases hf with h | ⟨h1, h2, h⟩ | ⟨i, k, t, h1, h2, h3, h⟩ | ⟨i, k, t, h1, h2, h⟩
  · exact .inl h
  · refine .inr (.inl ⟨_, h, ?_⟩)
    rw [a8] at h1
    exact ⟨⟨a1, a2, a3, a4, a5, a6⟩, by simp [a7], by simp [a7], by simp [State.heldExecute, h1],
      by simp [a7, h1], by simp [a7], by simp [a8, State.trackerAtDecode, fuExit_of_peek_none h1], a9, a11,
      by simp [a10, h1, StepResult.init], fun _ => by simp [a10, StepResult.init]⟩
  · have hq : s.ExecutesQuietly → k = none := fun hq => hq.none (i := i)
      (by rw [a8] at h1; rw [a7] at h2; simp [State.executing, h1, show s.slots.execute = _ from h2, Slot.inst]) h3
    obtain ⟨rfl, _⟩ := runExecuteHook_cases h3
    rw [a8] at h1
    cases hr : raiseSync { b with s := applyHook b.s (callHook .execute i b.s) } k with
    | breach => rw [hr] at h; exact .inl h
    | go e =>
      obtain ⟨e1, e2, e3, e4, e5, e6, e7⟩ := raiseSync_go hr
      rw [hr] at h
      refine .inr (.inl ⟨_, h, ?_⟩)
      exact ⟨⟨by simp [e1, a1], by simp [e1, a2], by simp [e1, a3], by simp [e1, a4], by simp [e1, a5],
        by simp [e1, a6]⟩, by simp [e1, a7], by simp [e1, a7], by simp [State.heldExecute, h1],
        by simp [e1, a7, h1], by simp [e1, a7],
        by simp [e1, a8, State.trackerAtDecode, fuExit_of_peek_none h1], by simp [e1, a9], a11,
        by simp [e2, e3, e4, e5, e6, a10, h1, StepResult.init],
        fun q => by simp [e7 (hq q), a10, StepResult.init]⟩
    | ends e =>
      obtain ⟨e1, e2, e3, e4, e5, e6, e7⟩ := raiseSync_ends hr
      rw [hr] at h
      refine .inr (.inr ⟨_, h, ?_⟩)
      exact ⟨⟨by simp [e1, a1], by simp [e1, a2], by simp [e1, a3], by simp [e1, a4], by simp [e1, a5],
        by simp [e1, a6]⟩, by simp [e1, a7], by simp [e1, a8], by simp [e1], a11,
        by simp [e2, e3, e4, e5, e6, a10, StepResult.init], fun q => e7 (hq q)⟩
  · have hq : s.ExecutesQuietly → k = none := fun hq => hq.none (i := i)
      (by rw [a8] at h1; simp [State.executing, h1]) h2
    obtain ⟨rfl, _⟩ := runExecuteHook_cases h2
    rw [a8] at h1
    cases hr : raiseSync { b with s := applyHook b.s (callHook .execute i b.s) } k with
    | breach => rw [hr] at h; exact .inl h
    | go e =>
      obtain ⟨e1, e2, e3, e4, e5, e6, e7⟩ := raiseSync_go hr
      rw [hr] at h
      refine .inr (.inl ⟨_, h, ?_⟩)
      refine ⟨⟨by simp [e1, a1], by simp [e1, a2], by simp [e1, a3], ?_, by simp [e1, a5],
        by simp [e1, a6]⟩, by simp [e1, a7], by simp [e1, a7], by simp [State.heldExecute, e1, a7, h1],
        by simp [h1], by simp [e1, a7], by simp [e1, a8, State.trackerAtDecode], by simp [e1, a9], a11, ?_,
        fun q => ?_⟩
      · simp only
        split <;> simp [e1, a4]
      · cases hx : s.slots.execute.real <;> simp [e1, a7, e2, e3, e4, e5, e6, a10, h1, hx, StepResult.init]
      · simp only
        split <;> simp [e7 (hq q), a10, StepResult.init]
    | ends e =>
      obtain ⟨e1, e2, e3, e4, e5, e6, e7⟩ := raiseSync_ends hr
      rw [hr] at h
      refine .inr (.inr ⟨_, h, ?_⟩)
      exact ⟨⟨by simp [e1, a1], by simp [e1, a2], by simp [e1, a3], by simp [e1, a4], by simp [e1, a5],
        by simp [e1, a6]⟩, by simp [e1, a7], by simp [e1, a8], by simp [e1], a11,
        by simp [e2, e3, e4, e5, e6, a10, StepResult.init], fun q => e7 (hq q)⟩

/-- IF stage after a placement (R205, R206). -/
theorem ifStage_outcome {b d : Cycle} {u : State} (hp : Placed b.s u) (hr : SameRest b.s u)
    (hfe : u.slots.fetch = b.s.slots.fetch) (hd : ifStage ⟨u, b.res⟩ = .go d ∨ ifStage ⟨u, b.res⟩ = .ends d) :
    DecodeOutcome b d := by
  obtain ⟨s1, s2, s3, s4, s5, s6⟩ := hr
  rcases ifStage_cases (c := ⟨u, b.res⟩) rfl with
    e | ⟨h1, e⟩ | ⟨h1, h2, e⟩ | ⟨i, brk, i', t, h1, h2, h3, e⟩ <;> rw [e] at hd
  · rcases hd with hd | hd <;> cases hd
  · rcases hd with hd | hd <;> cases hd
    exact .held u hp h1 rfl ⟨s1, s2, s3, s4, s5, s6⟩ rfl rfl rfl rfl ⟨rfl, rfl, rfl, rfl, rfl⟩
  · rcases hd with hd | hd <;> cases hd
    exact .fetched u u.slots.fetch _ u.pc hp h1 (by rw [hfe]) rfl ⟨s1, s2, s3, s4, rfl, s6⟩
      (by simp [advanceFetch, fetchNext, s5]) rfl rfl rfl rfl ⟨rfl, rfl, rfl, rfl, rfl⟩
  · obtain ⟨rfl, rfl, _⟩ := runFetchHook_cases h3
    rcases hd with hd | hd <;> cases hd
    simp only at h2
    exact .fetched u (.instr _) _ u.pc hp h1 (by rw [← hfe, h2]; rfl) rfl ⟨s1, s2, s3, s4, rfl, s6⟩
      (by simp [advanceFetch, fetchNext, s5]) rfl rfl rfl rfl ⟨rfl, rfl, rfl, rfl, rfl⟩

/-- A stall retires nothing. -/
@[simp] theorem countStall_instructions (n : Counters) (k : Stall) :
    (countStall n k).instructions = n.instructions := by cases k <;> rfl

/-- ID stage, and the IF stage behind it (R199 to R207). -/
theorem idStage_outcome {b d : Cycle} (hd : idStage ifStage b = .go d ∨ idStage ifStage b = .ends d) :
    DecodeOutcome b d := by
  rcases idStage_cases (next := ifStage) (c := b) rfl with
    h | ⟨h1, h⟩ | ⟨h1, h2, h⟩ | ⟨h1, h2, h⟩ | ⟨i, hi, ⟨k, h, _⟩ | ⟨place, hp, a, t, hk, hrest⟩⟩
  · rw [h] at hd
    rcases hd with hd | hd <;> cases hd
  · rw [h] at hd
    exact ifStage_outcome (u := b.s) (.nothing h1 rfl rfl rfl) ⟨rfl, rfl, rfl, rfl, rfl, rfl⟩ rfl hd
  · rw [h] at hd
    rcases hd with hd | hd <;> cases hd
    exact .stalled rfl ⟨rfl, rfl, rfl, rfl, rfl, rfl⟩ rfl rfl (by simp) rfl ⟨rfl, rfl, rfl, rfl, rfl⟩
  · rw [h] at hd
    exact ifStage_outcome (u := placeBubble b.s) (.bubble h1 h2 rfl rfl rfl)
      ⟨rfl, rfl, rfl, rfl, rfl, rfl⟩ rfl hd
  · rw [h] at hd
    rcases hd with hd | hd <;> cases hd
    exact .stalled rfl ⟨rfl, rfl, rfl, countStall_instructions _ _, rfl, rfl⟩ rfl rfl (by simp) rfl
        ⟨rfl, rfl, rfl, rfl, rfl⟩
  · obtain ⟨rfl, _⟩ := runDecodeHook_cases hk
    obtain ⟨p1, p2, p3⟩ := hp.placed hi (callHook .decode i b.s)
    rcases hrest with ⟨k, _, h⟩ | ⟨_, h⟩ | ⟨tg, _, h⟩ <;> rw [h] at hd
    · rcases hd with hd | hd <;> cases hd
      exact .stalled rfl ⟨rfl, rfl, rfl, countStall_instructions _ _, rfl, rfl⟩ rfl rfl (by simp) rfl
        ⟨rfl, rfl, rfl, rfl, rfl⟩
    · exact ifStage_outcome p1 p2 p3 hd
    · rcases hd with hd | hd
      · cases hd
      · obtain ⟨s1, s2, s3, s4, s5, s6⟩ := p2
        obtain ⟨u, hu, hcas⟩ := redirectCycle_cases hd
        cases hu
        rcases hcas with ⟨hn, rfl⟩ | ⟨hn, rfl⟩
        · exact .refetched _ _ tg p1 hn rfl ⟨s1, s2, s3, s4, rfl, s6⟩ (by simp [fetchNext, s5]) rfl rfl rfl
            ⟨rfl, rfl, rfl, rfl, rfl⟩
        · exact .turned _ p1 hn rfl ⟨s1, s2, s3, s4, s5, s6⟩ rfl rfl rfl ⟨rfl, rfl, rfl, rfl, rfl⟩

/-- A cycle that is not refused halts, is cut short, or has one of the outcomes of its ID stage (R191). -/
theorem runCycle_outcome {s : State} {d : Cycle} (h : runCycle s = .go d ∨ runCycle s = .ends d) :
    CycleOutcome s d := by
  refine runCycle_stages (Consumed s) (Moved s) (Reached s) (CycleOutcome s) ?_ ?_ ?_ ?_ ?_ ?_ h
  · intro b hb
    rcases wbStage_outcome hb with h | ⟨_, h, m⟩ | ⟨_, h, m⟩ <;> cases h
    exact m
  · intro b hb
    rcases wbStage_outcome hb with h | ⟨_, h, m⟩ | ⟨_, h, m⟩ <;> cases h
    exact .halts m
  · intro b e h1 h2
    exact memStage_outcome h1 h2
  · intro b e h1 h2
    rcases exStage_outcome h1 h2 with h | ⟨_, h, m⟩ | ⟨_, h, m⟩ <;> cases h
    exact m
  · intro b e h1 h2
    rcases exStage_outcome h1 h2 with h | ⟨_, h, m⟩ | ⟨_, h, m⟩ <;> cases h
    exact .cutShort m
  · intro b e h1 h2
    exact .full b h1 (idStage_outcome h2)

/-- What no stage writes: the parameters, and the machine's inputs (R6, R37, R47, R69). -/
structure SameInputs (s u : State) : Prop where
  params : u.params = s.params
  cfg : u.cfg = s.cfg
  source : u.source = s.source
  inputs : u.inputs = s.inputs

/-- The IF stage keeps them (R205, R206). -/
theorem ifStage_frame {s : State} {b d : Cycle} (hb : SameInputs s b.s)
    (h : ifStage b = .go d ∨ ifStage b = .ends d) : SameInputs s d.s := by
  obtain ⟨h1, h2, h3, h4⟩ := hb
  rcases ifStage_cases (c := b) rfl with e | ⟨_, e⟩ | ⟨_, _, e⟩ | ⟨i, k, j, t, _, _, hk, e⟩ <;> rw [e] at h
  · rcases h with h | h <;> cases h
  · rcases h with h | h <;> cases h
    exact ⟨h1, h2, h3, h4⟩
  · rcases h with h | h <;> cases h
    exact ⟨h1, h2, h3, h4⟩
  · obtain ⟨rfl, rfl, _⟩ := runFetchHook_cases hk
    rcases h with h | h <;> cases h
    exact ⟨h1, h2, h3, h4⟩

/-- No cycle writes the parameters or the machine's inputs, whatever the hooks answer. -/
theorem runCycle_frame {s : State} {c : Cycle} (h : runCycle s = .go c ∨ runCycle s = .ends c) :
    SameInputs s c.s := by
  have hw : ∀ {w : State}, consumeWriteback (beginCycle s).s = some w → SameInputs s w := by
    intro w hw
    rcases consumeWriteback_cases hw with ⟨_, rfl⟩ | ⟨i, _, _, rfl⟩ | ⟨i, t, _, _, hr, rfl⟩
    · exact ⟨rfl, rfl, rfl, rfl⟩
    · exact ⟨rfl, rfl, rfl, rfl⟩
    · obtain ⟨_, rfl⟩ := runOkHook_cases hr
      exact ⟨rfl, rfl, rfl, rfl⟩
  have hx : ∀ {b : Cycle} {k : Option Nat} {d : Cycle}, SameInputs s b.s →
      raiseSync b k = .go d ∨ raiseSync b k = .ends d → SameInputs s d.s := by
    intro b k d hb h
    rcases raiseSync_cases (c := b) (k := k) rfl with ⟨m, y, hr, _⟩ | ⟨kind, _, _, _, hr⟩ <;>
      rw [hr] at h <;> rcases h with h | h <;> cases h
    · exact hb
    · exact ⟨hb.params, hb.cfg, hb.source, hb.inputs⟩
  have hex : ∀ {b d : Cycle}, SameInputs s b.s → exStage b = .go d ∨ exStage b = .ends d →
      SameInputs s d.s := by
    intro b d hb h
    rcases exStage_cases (c := b) rfl with e | ⟨_, _, e⟩ | ⟨i, k, t, _, _, hk, e⟩ | ⟨i, k, t, _, hk, e⟩ <;>
      rw [e] at h
    · rcases h with h | h <;> cases h
    · rcases h with h | h <;> cases h
      exact ⟨hb.params, hb.cfg, hb.source, hb.inputs⟩
    all_goals
      obtain ⟨rfl, _⟩ := runExecuteHook_cases hk
      cases hr : raiseSync { b with s := applyHook b.s (callHook .execute i b.s) } k with
      | breach => rw [hr] at h; rcases h with h | h <;> cases h
      | go e =>
        have he := hx (b := { b with s := applyHook b.s (callHook .execute i b.s) })
          ⟨hb.params, hb.cfg, hb.source, hb.inputs⟩ (.inl hr)
        rw [hr] at h
        rcases h with h | h <;> cases h
        exact ⟨he.params, he.cfg, he.source, he.inputs⟩
      | ends e =>
        have he := hx (b := { b with s := applyHook b.s (callHook .execute i b.s) })
          ⟨hb.params, hb.cfg, hb.source, hb.inputs⟩ (.inr hr)
        rw [hr] at h
        rcases h with h | h <;> cases h
        exact he
  refine runCycle_stages (fun d => SameInputs s d.s) (fun d => SameInputs s d.s) (fun d => SameInputs s d.s)
    (fun d => SameInputs s d.s) ?_ ?_ ?_ (fun _ _ hb h => hex hb (.inl h)) (fun _ _ hb h => hex hb (.inr h)) ?_ h
  · intro d hd
    rcases wbStage_cases hd with h | ⟨w, h1, ⟨h, _⟩ | ⟨i, t, _, _, _, _, h⟩⟩ <;> cases h
    exact hw h1
  · intro d hd
    rcases wbStage_cases hd with h | ⟨w, h1, ⟨h, _⟩ | ⟨i, t, _, _, _, h4, h⟩⟩ <;> cases h
    obtain ⟨_, rfl⟩ := runOkHook_cases h4
    have := hw h1
    exact ⟨this.params, this.cfg, this.source, this.inputs⟩
  · intro b d hb hd
    rcases memStage_cases hd with h | ⟨t, h, ⟨_, rfl⟩ | ⟨_, rfl⟩ | ⟨i, u, _, hu, rfl⟩⟩ <;> cases h
    · exact hb
    · exact ⟨hb.params, hb.cfg, hb.source, hb.inputs⟩
    · obtain ⟨_, rfl⟩ := runOkHook_cases hu
      exact ⟨hb.params, hb.cfg, hb.source, hb.inputs⟩
  · intro b d hb hd
    obtain ⟨h1, h2, h3, h4⟩ := hb
    rcases idStage_cases (next := ifStage) (c := b) rfl with
      h | ⟨_, h⟩ | ⟨_, _, h⟩ | ⟨_, _, h⟩ | ⟨i, hi, ⟨k, h, _⟩ | ⟨place, hp, a, t, hk, hrest⟩⟩
    · rw [h] at hd
      rcases hd with hd | hd <;> cases hd
    · rw [h] at hd
      exact ifStage_frame ⟨h1, h2, h3, h4⟩ hd
    · rw [h] at hd
      rcases hd with hd | hd <;> cases hd
      exact ⟨h1, h2, h3, h4⟩
    · rw [h] at hd
      exact ifStage_frame (b := { b with s := placeBubble b.s }) ⟨h1, h2, h3, h4⟩ hd
    · rw [h] at hd
      rcases hd with hd | hd <;> cases hd
      exact ⟨h1, h2, h3, h4⟩
    · obtain ⟨rfl, _⟩ := runDecodeHook_cases hk
      have hpl : SameInputs s (place (applyHook b.s (callHook .decode i b.s))) := by
        cases hp with
        | unit u hu hc => exact ⟨h1, h2, h3, h4⟩
        | execute hu he => exact ⟨h1, h2, h3, h4⟩
      rcases hrest with ⟨k, _, h⟩ | ⟨_, h⟩ | ⟨tg, _, h⟩ <;> rw [h] at hd
      · rcases hd with hd | hd <;> cases hd
        exact ⟨h1, h2, h3, h4⟩
      · exact ifStage_frame hpl hd
      · rcases hd with hd | hd
        · cases hd
        · obtain ⟨u, hu, hcas⟩ := redirectCycle_cases hd
          cases hu
          rcases hcas with ⟨_, rfl⟩ | ⟨_, rfl⟩ <;> exact ⟨hpl.params, hpl.cfg, hpl.source, hpl.inputs⟩

end Sys2Proof.Machine
end

