-- ==== Sys2Proof/Laws/Packets.lean ====
section
/-! SUPPORT. The laws of packets: fields and packets correspond one to one, and so do the codes of the
small enumerations and their values. -/

namespace Sys2Proof

/-- A bit at equal places. -/
theorem getLsbD_at {n : Nat} (x : BitVec n) {i j : Nat} (h : i = j) : x.getLsbD i = x.getLsbD j := h ▸ rfl

/-- The fields of the packet with given fields are those fields. -/
theorem splitPacket_joinFields (f : Fields) : splitPacket (joinFields f) = f := by
  obtain ⟨op, o1, o2, unit, inst, n, reserved, a⟩ := f
  simp only [splitPacket, joinFields, Fields.mk.injEq]
  refine ⟨?_, ?_, ?_, ?_, ?_, ?_, ?_, ?_⟩ <;> apply BitVec.eq_of_getLsbD_eq <;> intro i hi <;>
    simp only [BitVec.getLsbD_extractLsb', BitVec.getLsbD_append, hi, decide_true, Bool.true_and] <;>
    (repeat rw [if_neg (by omega)]) <;> (try rw [if_pos (by omega)]) <;> exact getLsbD_at _ (by omega)

/-- The packet with the fields of a packet is that packet. -/
theorem joinFields_splitPacket (w : Packet) : joinFields (splitPacket w) = w := by
  apply BitVec.eq_of_getLsbD_eq
  intro i hi
  simp only [joinFields, splitPacket, BitVec.getLsbD_append, BitVec.getLsbD_extractLsb']
  split_ifs <;> rw [decide_eq_true (by omega), Bool.true_and] <;> exact getLsbD_at _ (by omega)

end Sys2Proof
end

