-- ==== Sys2Proof/Laws/PerInstr.lean ====
section
/-! SUPPORT. The per-instruction family `PacketFields`: the packet of an operation carries the operation's
code in its `op` field and zeros in the reserved bits (R95, R97). -/

namespace Sys2Proof.Laws.PacketFields

/-- The packet of the operation has the operation's code, and its reserved bits are zero. -/
def Statement (i : Instr) : Prop :=
  (splitPacket (encode i)).op = i.opcode ∧ (splitPacket (encode i)).reserved = 0

theorem scNew (bits : BitVec 8) (init : Word) : Statement (.scNew bits init) := by
  simp [Statement, encode, splitPacket_joinFields, encodeFields, zeroFields, Instr.opcode]

theorem scInc (c : CounterSel) : Statement (.scInc c) := by
  cases c <;> simp [Statement, encode, splitPacket_joinFields, encodeFields, counterFields, zeroFields,
    Instr.opcode]

theorem scDec (c : CounterSel) : Statement (.scDec c) := by
  cases c <;> simp [Statement, encode, splitPacket_joinFields, encodeFields, counterFields, zeroFields,
    Instr.opcode]

theorem scValue (c : CounterSel) : Statement (.scValue c) := by
  cases c <;> simp [Statement, encode, splitPacket_joinFields, encodeFields, counterFields, zeroFields,
    Instr.opcode]

theorem scPredicts (c : CounterSel) : Statement (.scPredicts c) := by
  cases c <;> simp [Statement, encode, splitPacket_joinFields, encodeFields, counterFields, zeroFields,
    Instr.opcode]

theorem srNew (width : BitVec 8) : Statement (.srNew width) := by
  simp [Statement, encode, splitPacket_joinFields, encodeFields, zeroFields, Instr.opcode]

theorem srPush (r : HistorySel) (o : Outcome) : Statement (.srPush r o) := by
  cases r <;> simp [Statement, encode, splitPacket_joinFields, encodeFields, historyFields, zeroFields,
    Instr.opcode]

theorem srPattern (r : HistorySel) : Statement (.srPattern r) := by
  cases r <;> simp [Statement, encode, splitPacket_joinFields, encodeFields, historyFields, zeroFields,
    Instr.opcode]

theorem htRecord (addr : Addr) (o : Outcome) : Statement (.htRecord addr o) := by
  simp [Statement, encode, splitPacket_joinFields, encodeFields, zeroFields, Instr.opcode]

theorem htPatternFor (addr : Addr) : Statement (.htPatternFor addr) := by
  simp [Statement, encode, splitPacket_joinFields, encodeFields, zeroFields, Instr.opcode]

theorem ptPredict (t : TableSel) (key : Word) : Statement (.ptPredict t key) := by
  simp [Statement, encode, splitPacket_joinFields, encodeFields, zeroFields, Instr.opcode]

theorem ptTrain (t : TableSel) (key : Word) (actual : Outcome) : Statement (.ptTrain t key actual) := by
  simp [Statement, encode, splitPacket_joinFields, encodeFields, zeroFields, Instr.opcode]

theorem bpPredict (addr : Addr) : Statement (.bpPredict addr) := by
  simp [Statement, encode, splitPacket_joinFields, encodeFields, zeroFields, Instr.opcode]

theorem bpResolve (addr : Addr) (actual : Outcome) (predicted : Outcome) : Statement (.bpResolve addr actual predicted) := by
  simp [Statement, encode, splitPacket_joinFields, encodeFields, zeroFields, Instr.opcode]

theorem bpStats : Statement .bpStats := by
  simp [Statement, encode, splitPacket_joinFields, encodeFields, zeroFields, Instr.opcode]

theorem bpClearStats : Statement .bpClearStats := by
  simp [Statement, encode, splitPacket_joinFields, encodeFields, zeroFields, Instr.opcode]

theorem bpClearTables : Statement .bpClearTables := by
  simp [Statement, encode, splitPacket_joinFields, encodeFields, zeroFields, Instr.opcode]

theorem fuTryAdmit (ref : Word) (unit : FUnit) : Statement (.fuTryAdmit ref unit) := by
  simp [Statement, encode, splitPacket_joinFields, encodeFields, zeroFields, Instr.opcode]

theorem fuAdvance : Statement .fuAdvance := by
  simp [Statement, encode, splitPacket_joinFields, encodeFields, zeroFields, Instr.opcode]

theorem fuIsEmpty : Statement .fuIsEmpty := by
  simp [Statement, encode, splitPacket_joinFields, encodeFields, zeroFields, Instr.opcode]

theorem fuReadyCount : Statement .fuReadyCount := by
  simp [Statement, encode, splitPacket_joinFields, encodeFields, zeroFields, Instr.opcode]

theorem fuIsStageFilled (unit : FUnit) (stage : BitVec 8) : Statement (.fuIsStageFilled unit stage) := by
  simp [Statement, encode, splitPacket_joinFields, encodeFields, zeroFields, Instr.opcode]

theorem fuInstrAt (unit : FUnit) (stage : BitVec 8) : Statement (.fuInstrAt unit stage) := by
  simp [Statement, encode, splitPacket_joinFields, encodeFields, zeroFields, Instr.opcode]

theorem fuExit : Statement .fuExit := by
  simp [Statement, encode, splitPacket_joinFields, encodeFields, zeroFields, Instr.opcode]

theorem fuClear : Statement .fuClear := by
  simp [Statement, encode, splitPacket_joinFields, encodeFields, zeroFields, Instr.opcode]

theorem peStep : Statement .peStep := by
  simp [Statement, encode, splitPacket_joinFields, encodeFields, zeroFields, Instr.opcode]

theorem peReset : Statement .peReset := by
  simp [Statement, encode, splitPacket_joinFields, encodeFields, zeroFields, Instr.opcode]

theorem peStart : Statement .peStart := by
  simp [Statement, encode, splitPacket_joinFields, encodeFields, zeroFields, Instr.opcode]

theorem peStatus : Statement .peStatus := by
  simp [Statement, encode, splitPacket_joinFields, encodeFields, zeroFields, Instr.opcode]

theorem peCounter (index : BitVec 8) : Statement (.peCounter index) := by
  simp [Statement, encode, splitPacket_joinFields, encodeFields, zeroFields, Instr.opcode]

theorem peSlot (slot : SlotName) : Statement (.peSlot slot) := by
  simp [Statement, encode, splitPacket_joinFields, encodeFields, zeroFields, Instr.opcode]

theorem peReg (r : BitVec 8) : Statement (.peReg r) := by
  simp [Statement, encode, splitPacket_joinFields, encodeFields, zeroFields, Instr.opcode]

end Sys2Proof.Laws.PacketFields
end

