-- ==== Sys2Proof/Laws/Tables.lean ====
section
/-! SUPPORT. The laws of the associative tables: a lookup after an insertion, the canonical form, and the
injectivity of the two ranks. -/

namespace Sys2Proof.Machine

variable {κ ν : Type} [DecidableEq κ]

@[simp] theorem tableFind_nil (k : κ) : tableFind ([] : List (κ × ν)) k = none := rfl

/-- A lookup after an insertion: the inserted key reads the inserted value, every other key reads as
before. -/
theorem tableFind_tableInsert (rank : κ → Nat) (t : List (κ × ν)) (k k' : κ) (v : ν) :
    tableFind (tableInsert rank t k v) k' = if k' = k then some v else tableFind t k' := by
  by_cases h : k' = k
  · subst h
    induction t with
    | nil => simp [tableInsert, tableFind]
    | cons e rest ih =>
      by_cases hk : e.1 = k'
      · simp [tableInsert, tableFind, hk]
      · by_cases hr : rank k' < rank e.1 <;> simp [tableInsert, tableFind, hk, hr, ih]
  · have h' : ¬k = k' := fun e => h e.symm
    induction t with
    | nil => simp [tableInsert, tableFind, h, h']
    | cons e rest ih =>
      by_cases hk : e.1 = k
      · simp [tableInsert, tableFind, hk, h, h']
      · by_cases hr : rank k < rank e.1 <;> simp [tableInsert, tableFind, hk, hr, ih, h, h']

@[simp] theorem tableFind_tableInsert_self (rank : κ → Nat) (t : List (κ × ν)) (k : κ) (v : ν) :
    tableFind (tableInsert rank t k v) k = some v := by simp [tableFind_tableInsert]

/-- What an insertion can add: the new entry, and nothing else. -/
theorem mem_tableInsert {rank : κ → Nat} {t : List (κ × ν)} {k : κ} {v : ν} {e : κ × ν}
    (h : e ∈ tableInsert rank t k v) : e = (k, v) ∨ e ∈ t := by
  induction t with
  | nil => simpa [tableInsert] using h
  | cons a rest ih =>
    unfold tableInsert at h
    split at h
    · rcases List.mem_cons.1 h with h | h
      · exact .inl h
      · exact .inr (List.mem_cons_of_mem _ h)
    · split at h
      · exact List.mem_cons.1 h
      · rcases List.mem_cons.1 h with h | h
        · exact .inr (h ▸ List.mem_cons_self)
        · exact (ih h).imp id (List.mem_cons_of_mem _)

/-- A value that a lookup finds is in the table. -/
theorem mem_of_tableFind {t : List (κ × ν)} {k : κ} {v : ν} (h : tableFind t k = some v) :
    (k, v) ∈ t := by
  induction t with
  | nil => simp at h
  | cons e rest ih =>
    unfold tableFind at h
    split at h
    · rename_i hk
      cases h
      subst hk
      exact List.mem_cons_self
    · exact List.mem_cons_of_mem _ (ih h)

/-- An insertion keeps the canonical form. -/
theorem tableInsert_wf {rank : κ → Nat} (hinj : Function.Injective rank) {t : List (κ × ν)} (k : κ)
    (v : ν) (h : TableWf rank t) : TableWf rank (tableInsert rank t k v) := by
  induction t with
  | nil => simp [tableInsert, TableWf]
  | cons e rest ih =>
    obtain ⟨hlt, hrest⟩ := List.pairwise_cons.1 h
    unfold tableInsert
    split
    · rename_i hk
      exact List.pairwise_cons.2 ⟨fun a ha => hk ▸ hlt a ha, hrest⟩
    · rename_i hk
      split
      · rename_i hr
        refine List.pairwise_cons.2 ⟨fun a ha => ?_, h⟩
        rcases List.mem_cons.1 ha with rfl | ha
        · exact hr
        · exact hr.trans (hlt a ha)
      · rename_i hr
        have hne : rank e.1 ≠ rank k := fun heq => hk (hinj heq)
        refine List.pairwise_cons.2 ⟨fun a ha => ?_, ih hrest⟩
        rcases mem_tableInsert ha with rfl | ha
        · show rank e.1 < rank k
          omega
        · exact hlt a ha

theorem addrRank_injective : Function.Injective addrRank := fun _ _ h => BitVec.eq_of_toNat_eq h

/-- The base-4 number of a pattern behind `acc` determines `acc` and the pattern, for patterns of one
length. -/
theorem symbols_injective (h₁ h₂ : List Outcome) (a₁ a₂ : Nat) (hlen : h₁.length = h₂.length)
    (h : h₁.foldl (fun acc o => 4 * acc + (outcomeCode o).toNat) a₁
      = h₂.foldl (fun acc o => 4 * acc + (outcomeCode o).toNat) a₂) : a₁ = a₂ ∧ h₁ = h₂ := by
  induction h₁ generalizing h₂ a₁ a₂ with
  | nil =>
    cases h₂ with
    | nil => exact ⟨h, rfl⟩
    | cons => simp at hlen
  | cons o₁ r₁ ih =>
    cases h₂ with
    | nil => simp at hlen
    | cons o₂ r₂ =>
      obtain ⟨hacc, rfl⟩ := ih r₂ _ _ (by simpa using hlen) h
      cases o₁ <;> cases o₂ <;> simp [outcomeCode] at hacc ⊢ <;> omega

/-- The base-4 number of a pattern behind a leading 1 lies in the block of its length. -/
theorem symbols_bounds (h : List Outcome) (a : Nat) :
    a * 4 ^ h.length ≤ h.foldl (fun acc o => 4 * acc + (outcomeCode o).toNat) a
    ∧ h.foldl (fun acc o => 4 * acc + (outcomeCode o).toNat) a < (a + 1) * 4 ^ h.length := by
  induction h generalizing a with
  | nil => simp
  | cons o r ih =>
    have := ih (4 * a + (outcomeCode o).toNat)
    have hc : (outcomeCode o).toNat < 4 := (outcomeCode o).isLt
    simp only [List.foldl_cons, List.length_cons, pow_succ]
    constructor
    · refine le_trans ?_ this.1
      nlinarith [Nat.zero_le (4 ^ r.length)]
    · refine lt_of_lt_of_le this.2 ?_
      have : 4 * a + (outcomeCode o).toNat + 1 ≤ (a + 1) * 4 := by omega
      calc _ ≤ (a + 1) * 4 * 4 ^ r.length := Nat.mul_le_mul_right _ this
        _ = _ := by ring

theorem keyRank_injective : Function.Injective keyRank := by
  intro k₁ k₂ h
  cases k₁ with
  | nohist =>
    cases k₂ with
    | nohist => rfl
    | pattern h₂ =>
      have := (symbols_bounds h₂ 1).1
      have hp : 0 < 4 ^ h₂.length := by positivity
      simp only [keyRank] at h
      omega
  | pattern h₁ =>
    cases k₂ with
    | nohist =>
      have := (symbols_bounds h₁ 1).1
      have hp : 0 < 4 ^ h₁.length := by positivity
      simp only [keyRank] at h
      omega
    | pattern h₂ =>
      simp only [keyRank] at h
      have b₁ := symbols_bounds h₁ 1
      have b₂ := symbols_bounds h₂ 1
      have hlen : h₁.length = h₂.length := by
        by_contra hne
        rcases Nat.lt_or_gt_of_ne hne with hlt | hgt
        · have : 4 ^ (h₁.length + 1) ≤ 4 ^ h₂.length := Nat.pow_le_pow_right (by norm_num) hlt
          rw [pow_succ] at this
          omega
        · have : 4 ^ (h₂.length + 1) ≤ 4 ^ h₁.length := Nat.pow_le_pow_right (by norm_num) hgt
          rw [pow_succ] at this
          omega
      rw [(symbols_injective h₁ h₂ 1 1 hlen h).2]

/-- Every table operation keeps the canonical form: HT, keyed by address. -/
theorem htInsert_wf {ν : Type} {t : List (Addr × ν)} (a : Addr) (v : ν) (h : TableWf addrRank t) :
    TableWf addrRank (tableInsert addrRank t a v) := tableInsert_wf addrRank_injective a v h

/-- Every table operation keeps the canonical form: LPT and GPT, keyed by pattern. -/
theorem ptInsert_wf {ν : Type} {t : List (PKey × ν)} (k : PKey) (v : ν) (h : TableWf keyRank t) :
    TableWf keyRank (tableInsert keyRank t k v) := tableInsert_wf keyRank_injective k v h

end Sys2Proof.Machine
end

