-- ==== Sys2Proof/Laws/Predictor.lean ====
section
/-! SUPPORT. The laws of counters, histories, pattern tables and the branch predictor: what each shared
operation answers, and that each keeps the predictor's shape. -/

namespace Sys2Proof.Machine

/-! ### Counters -/

/-- A counter predicts when its value is at least half the range (R114). -/
theorem counterPredicts_eq (bits v : Nat) : counterPredicts bits v = decide (2 ^ (bits - 1) ≤ v) := by
  have : 0 < 2 ^ (bits - 1) := by positivity
  unfold counterPredicts counterThreshold
  congr 1
  apply propext
  omega

/-- The four-way update of PT.TRAIN follows the outcome alone (R137). -/
theorem trainCounter_eq (bits v : Nat) {actual : Outcome} (h : actual ≠ .unknown) :
    trainCounter bits v actual = movedBy bits v actual := by
  unfold trainCounter movedBy counterOutcome
  cases actual with
  | unknown => exact absurd rfl h
  | taken => cases counterPredicts bits v <;> rfl
  | notTaken => cases counterPredicts bits v <;> rfl

theorem counterInc_le (bits v : Nat) : counterInc bits v ≤ 2 ^ bits - 1 := Nat.min_le_right _ _

theorem counterDec_le {v m : Nat} (h : v ≤ m) : counterDec v ≤ m := (Nat.sub_le v 1).trans h

theorem trainCounter_le (bits v : Nat) (actual : Outcome) (h : v ≤ 2 ^ bits - 1) :
    trainCounter bits v actual ≤ 2 ^ bits - 1 := by
  unfold trainCounter
  dsimp only
  split_ifs
  · exact counterInc_le bits v
  · exact counterDec_le h
  · exact counterDec_le h
  · exact counterInc_le bits v

theorem selectorUpdate_le (bits v : Nat) (g c : Bool) (h : v ≤ 2 ^ bits - 1) :
    selectorUpdate bits v g c ≤ 2 ^ bits - 1 := by
  unfold selectorUpdate
  split_ifs
  · exact counterInc_le bits v
  · exact counterDec_le h
  · exact counterDec_le h
  · exact counterInc_le bits v

/-- The seed of a new counter fits its width (R87). -/
theorem seedOf_le (bits : Nat) (k : PKey) : seedOf bits k ≤ 2 ^ bits - 1 := by
  have hp : 0 < 2 ^ bits := by positivity
  cases k with
  | nohist => exact Nat.zero_le _
  | pattern h =>
    simp only [seedOf]
    split_ifs
    · exact Nat.zero_le _
    · exact Nat.le_sub_one_of_lt (Nat.mod_lt _ hp)

/-! ### Histories -/

/-- A push keeps the width (R123). -/
@[simp] theorem historyPush_length (h : List Outcome) (o : Outcome) :
    (historyPush h o).length = h.length := by simp [historyPush]

/-- A push into a register puts the outcome at the front and loses the oldest (R121). -/
theorem historyPush_eq {h : List Outcome} (o : Outcome) (hne : h ≠ []) :
    historyPush h o = o :: h.dropLast := by
  cases h with
  | nil => exact absurd rfl hne
  | cons a l => simp [historyPush, List.dropLast_eq_take]

@[simp] theorem historyNew_length (w : Nat) : (historyNew w).length = w := by simp [historyNew]

/-! ### BP.RESOLVE, field by field (R147) -/

variable (p : Params) (b : Predictor) (addr : Addr) (actual predicted : Outcome)

theorem bpResolve_ht : (bpResolve p b addr actual predicted).ht
    = tableInsert addrRank b.ht addr
        (historyPush ((tableFind b.ht addr).getD (historyNew p.wLocal)) actual) := by
  unfold bpResolve statsUpdate
  dsimp only
  split_ifs <;> rfl

theorem bpResolve_ghr : (bpResolve p b addr actual predicted).ghr = historyPush b.ghr actual := by
  unfold bpResolve statsUpdate
  dsimp only
  split_ifs <;> rfl

theorem bpResolve_lpt : (bpResolve p b addr actual predicted).lpt
    = ptTrain p.bLocal b.lpt (htPatternFor b addr) actual := by
  unfold bpResolve statsUpdate
  dsimp only
  split_ifs <;> rfl

theorem bpResolve_gpt : (bpResolve p b addr actual predicted).gpt
    = ptTrain p.bGlobal b.gpt (.pattern b.ghr) actual := by
  unfold bpResolve statsUpdate
  dsimp only
  split_ifs <;> rfl

theorem bpResolve_sel : (bpResolve p b addr actual predicted).sel
    = selectorUpdate p.bSel b.sel (selectsGlobal p b) (decide (predicted = actual)) := by
  unfold bpResolve statsUpdate
  dsimp only
  split_ifs <;> rfl

theorem bpResolve_unknown : (bpResolve p b addr actual predicted).unknown
    = b.unknown + (if predicted = .unknown then 1 else 0) := by
  unfold bpResolve statsUpdate
  dsimp only
  split_ifs <;> rfl

theorem bpResolve_known : (bpResolve p b addr actual predicted).known
    = b.known + (if predicted = .unknown then 0 else 1) := by
  unfold bpResolve statsUpdate
  dsimp only
  split_ifs <;> rfl

theorem bpResolve_successful : (bpResolve p b addr actual predicted).successful
    = b.successful + (if predicted ≠ .unknown ∧ predicted = actual then 1 else 0) := by
  unfold bpResolve statsUpdate
  dsimp only
  split_ifs <;> simp_all [htRecord]

theorem bpResolve_unsuccessful : (bpResolve p b addr actual predicted).unsuccessful
    = b.unsuccessful + (if predicted ≠ .unknown ∧ predicted ≠ actual then 1 else 0) := by
  unfold bpResolve statsUpdate
  dsimp only
  split_ifs <;> simp_all [htRecord]

/-! ### The predictor's shape -/

variable {p b}

/-- A pattern table's canonical form and ranges, after PT.TRAIN under a key of the table. -/
theorem ptTrain_shape {bits : Nat} {t : List (PKey × Nat)} {fits : PKey → Bool} {k : PKey}
    (actual : Outcome) (hwf : TableWf keyRank t)
    (ht : ∀ e ∈ t, fits e.1 = true ∧ e.2 ≤ 2 ^ bits - 1) (hk : fits k = true) :
    TableWf keyRank (ptTrain bits t k actual)
    ∧ ∀ e ∈ ptTrain bits t k actual, fits e.1 = true ∧ e.2 ≤ 2 ^ bits - 1 := by
  refine ⟨ptInsert_wf _ _ hwf, fun e he => ?_⟩
  rcases mem_tableInsert he with rfl | he
  · refine ⟨hk, trainCounter_le _ _ _ ?_⟩
    cases hf : tableFind t k with
    | none => exact seedOf_le _ _
    | some v => exact (ht _ (mem_of_tableFind hf)).2
  · exact ht e he

/-- The pattern of an address is a key of LPT. -/
theorem htPatternFor_fits (h : ∀ e ∈ b.ht, e.2.length = p.wLocal) :
    localKeyFits p.wLocal (htPatternFor b addr) = true := by
  unfold htPatternFor
  split
  · rename_i hf
    simpa [localKeyFits] using h _ (mem_of_tableFind hf)
  · rfl

/-- HT.RECORD keeps the history table's shape. -/
theorem htRecord_shape (hwf : TableWf addrRank b.ht) (h : ∀ e ∈ b.ht, e.2.length = p.wLocal) :
    TableWf addrRank (htRecord p b addr actual).ht
    ∧ ∀ e ∈ (htRecord p b addr actual).ht, e.2.length = p.wLocal := by
  refine ⟨htInsert_wf _ _ hwf, fun e he => ?_⟩
  rcases mem_tableInsert he with rfl | he
  · simp only [historyPush_length]
    cases hf : tableFind b.ht addr with
    | none => simp
    | some x => simpa using h _ (mem_of_tableFind hf)
  · exact h e he

/-- BP.RESOLVE keeps the predictor's shape. -/
theorem bpResolve_shape (h : b.WellShaped p) : (bpResolve p b addr actual predicted).WellShaped p := by
  obtain ⟨h1, h2, h3, h4, h5, h6, h7, h8, h9⟩ := h
  obtain ⟨a1, a2⟩ := htRecord_shape (p := p) (b := b) addr actual h1 h2
  obtain ⟨a3, a4⟩ := ptTrain_shape (bits := p.bLocal) actual h3 h4 (htPatternFor_fits (b := b) addr h2)
  obtain ⟨a5, a6⟩ := ptTrain_shape (bits := p.bGlobal) (k := .pattern b.ghr) actual h5 h6
    (by simp [globalKeyFits, h7])
  refine ⟨?_, ?_, ?_, ?_, ?_, ?_, ?_, ?_, ?_⟩
  · rw [bpResolve_ht]; exact a1
  · rw [bpResolve_ht]; exact a2
  · rw [bpResolve_lpt]; exact a3
  · rw [bpResolve_lpt]; exact a4
  · rw [bpResolve_gpt]; exact a5
  · rw [bpResolve_gpt]; exact a6
  · rw [bpResolve_ghr, historyPush_length]; exact h7
  · rw [bpResolve_sel]; exact selectorUpdate_le _ _ _ _ h8
  · rw [bpResolve_known, bpResolve_successful, bpResolve_unsuccessful, h9]
    by_cases hu : predicted = .unknown <;> by_cases ha : predicted = actual <;> simp [hu, ha] <;> omega

/-- The BP.RESOLVE operations of a hook keep the predictor's shape. -/
theorem resolves_shape (rs : List Resolve) (h : b.WellShaped p) :
    (rs.foldl (applyResolve p) b).WellShaped p := by
  induction rs generalizing b with
  | nil => exact h
  | cons r rest ih =>
    refine ih ?_
    unfold applyResolve
    split
    · exact h
    · exact bpResolve_shape _ _ _ h

end Sys2Proof.Machine
end

