-- ==== Sys2Proof/Tests/Slice0.lean ====
section
/-! SUPPORT. The model's own tests: well-formedness, decoding of written-out packets (V-EN2), one small test
per operation from 95_test_vectors.md, and for every statement with hypotheses a state and operands that
meet them. -/

namespace Sys2Proof.Tests

open Sys2Proof.Machine

/-! ### Helpers -/

/-- The state an operation leads to. -/
def after (i : Instr) (s : State) : State :=
  match exec i s with
  | .next t => t
  | .fault _ => s
  | .refused _ => s

/-- The operation gives a next state. -/
def runs (i : Instr) (s : State) : Bool :=
  match exec i s with
  | .next _ => true
  | .fault _ => false
  | .refused _ => false

theorem exec_after {i : Instr} {s : State} (h : runs i s = true) : exec i s = .next (after i s) := by
  unfold runs at h
  unfold after
  split at h <;> simp_all

/-- The answer of an operation. -/
def answer (i : Instr) (s : State) : Response := (after i s).response

/-- The record of a PE.STEP. -/
def record (s : State) : StepResult :=
  match (answer .peStep s).result with
  | .step r => r
  | _ => StepResult.init

/-- An instruction that touches no register. -/
def plain : Conforming :=
  { sources := [], dest := none, checksWaw := false, control := .sequential, breakpoint := false,
    exception := none, value := 0 }

/-- A conforming instruction in flight, its reference the address it was fetched from. -/
def inst (addr : Addr) (cls : InstClass) (c : Conforming) : Inst :=
  { ref := addr, addr := addr, cls := cls, behaviour := .conforming c, pred := .unknown }

/-- An instruction of which only the contract is known. -/
def opaqueInst : Inst :=
  { ref := 0, addr := 0, cls := .integer, behaviour := .oracle, pred := .unknown }

/-- A halt instruction. -/
def halt : Inst := inst 0xC .terminating plain

/-- A no-operation at address 0x10. -/
def nop : Inst := inst 0x10 .integer plain

/-- A floating-point addition. -/
def fadd : Inst := inst 0x20 (.fpArith .adder) { plain with dest := some 2 }

/-- A running engine with the given slots, on a source that lists no-operations. -/
def live (slots : Slots) : State :=
  { State.reset with
    status := .running
    slots := slots
    source := [(0x0, ⟨0x0, .integer, .conforming plain⟩), (0x40, ⟨0x40, .integer, .conforming plain⟩)] }

/-- Empty slots but for `slot[ID]`. -/
def decoding (i : Inst) : Slots := { Slots.cleared with decode := .instr i }

/-- A predictor with one seen address and one entry in each table. -/
def trained : State :=
  { State.reset with
    pred := { State.reset.pred with
      ht := [(0x100, [.taken, .taken])]
      lpt := [(.nohist, 0), (.pattern [.taken, .taken], 2)]
      gpt := [(.pattern [.taken, .taken], 3)]
      ghr := [.taken, .taken]
      sel := 3 } }

/-- The tracker of V-FU1, line 7, in the family's small configuration. -/
def busy : State :=
  { State.powerOn { Config.reference with addStages := 2, mulStages := 3, divLatency := 4 } with
    fu := { add := [some (inst 8 (.fpArith .adder) plain), some (inst 4 (.fpArith .adder) plain)]
            mul := [none, none, some (inst 12 (.fpArith .multiplier) plain)]
            div := some (inst 16 (.fpArith .divider) plain)
            divRem := 1 } }

/-- The pending packet of the host. -/
def pending (w : Packet) : State := { State.reset with inputs := [.packet .host w] }

/-! ### Well-formedness -/

theorem test_reserved_key_refused : decode 0x11010000000000000000000000000003#128 = .error .illFormed := by
  decide

theorem test_wide_key_refused : decode 0x41010000000000004000000000000000#128 = .error .illFormed := by
  decide

theorem test_impure_sentinel_refused :
    decode 0x42420000000000008000000000000001#128 = .error .illFormed := by decide

theorem test_counter_index_refused : decode 0x74000d00000000000000000000000000#128 = .error .illFormed := by
  decide

theorem test_reserved_fields_refused :
    decode 0x00000000000000000000000000000000#128 = .error .reservedOp
    ∧ decode 0x51c00000000000000000000000000100#128 = .error .reservedOutcome
    ∧ decode 0x600c0000000000000000000000000000#128 = .error .reservedUnit
    ∧ decode 0x41000000000000000000000000000000#128 = .error .reservedInst
    ∧ decode 0x75000500000000000000000000000000#128 = .error .reservedSlot
    ∧ decode 0x70000000000000000000000000000001#128 = .error .unusedNotZero
    ∧ decode 0x70000001000000000000000000000000#128 = .error .unusedNotZero := by decide

theorem test_ill_formed_terms :
    (Instr.scInc (.lpt 3)).wellFormed = false ∧ (Instr.scDec (.gpt 0x4000000000000000)).wellFormed = false
    ∧ (Instr.scValue (.lpt 0xC)).wellFormed = false ∧ (Instr.scPredicts (.gpt 3)).wellFormed = false
    ∧ (Instr.ptPredict .lpt 0x8000000000000002).wellFormed = false
    ∧ (Instr.ptTrain .gpt 0x3000000000000000 .taken).wellFormed = false
    ∧ (Instr.peCounter 13).wellFormed = false := by decide

/-! ### Decoding (V-EN2) -/

theorem test_decode_counters :
    decode 0x10000200000000000000000000000003#128 = .ok (.scNew 2 3)
    ∧ decode 0x11000000000000000000000000000000#128 = .ok (.scInc .sel)
    ∧ decode 0x12010000000000000000000000000005#128 = .ok (.scDec (.lpt 5))
    ∧ decode 0x13020000000000000000000000000006#128 = .ok (.scValue (.gpt 6))
    ∧ decode 0x14010000000000008000000000000000#128 = .ok (.scPredicts (.lpt 0x8000000000000000)) := by
  decide

theorem test_decode_histories :
    decode 0x20000200000000000000000000000000#128 = .ok (.srNew 2)
    ∧ decode 0x21400000000000000000000000000000#128 = .ok (.srPush .ghr .taken)
    ∧ decode 0x21010000000000000000000000000100#128 = .ok (.srPush (.ht 0x100) .notTaken)
    ∧ decode 0x22010000000000000000000000000100#128 = .ok (.srPattern (.ht 0x100))
    ∧ decode 0x31400000000000000000000000000100#128 = .ok (.htRecord 0x100 .taken)
    ∧ decode 0x32000000000000000000000000000100#128 = .ok (.htPatternFor 0x100) := by decide

theorem test_decode_tables :
    decode 0x41010000000000008000000000000000#128 = .ok (.ptPredict .lpt 0x8000000000000000)
    ∧ decode 0x4102000000000000000000000000000a#128 = .ok (.ptPredict .gpt 0xA)
    ∧ decode 0x42410000000000000000000000000005#128 = .ok (.ptTrain .lpt 5 .taken)
    ∧ decode 0x42020000000000000000000000000001#128 = .ok (.ptTrain .gpt 1 .notTaken) := by decide

theorem test_decode_predictor :
    decode 0x50000000000000000000000000000100#128 = .ok (.bpPredict 0x100)
    ∧ decode 0x51600000000000000000000000000100#128 = .ok (.bpResolve 0x100 .taken .unknown)
    ∧ decode 0x51100000000000000000000000000004#128 = .ok (.bpResolve 4 .notTaken .taken)
    ∧ decode 0x52000000000000000000000000000000#128 = .ok .bpStats
    ∧ decode 0x53000000000000000000000000000000#128 = .ok .bpClearStats
    ∧ decode 0x54000000000000000000000000000000#128 = .ok .bpClearTables := by decide

theorem test_decode_units :
    decode 0x60080000000000000000000000000000#128 = .ok (.fuTryAdmit 0 .divider)
    ∧ decode 0x60000000000000000000000000000008#128 = .ok (.fuTryAdmit 8 .adder)
    ∧ decode 0x61000000000000000000000000000000#128 = .ok .fuAdvance
    ∧ decode 0x62000000000000000000000000000000#128 = .ok .fuIsEmpty
    ∧ decode 0x63000000000000000000000000000000#128 = .ok .fuReadyCount
    ∧ decode 0x64040700000000000000000000000000#128 = .ok (.fuIsStageFilled .multiplier 7)
    ∧ decode 0x65080100000000000000000000000000#128 = .ok (.fuInstrAt .divider 1)
    ∧ decode 0x66000000000000000000000000000000#128 = .ok .fuExit
    ∧ decode 0x67000000000000000000000000000000#128 = .ok .fuClear := by decide

theorem test_decode_engine :
    decode 0x70000000000000000000000000000000#128 = .ok .peStep
    ∧ decode 0x71000000000000000000000000000000#128 = .ok .peReset
    ∧ decode 0x72000000000000000000000000000000#128 = .ok .peStart
    ∧ decode 0x73000000000000000000000000000000#128 = .ok .peStatus
    ∧ decode 0x74000c00000000000000000000000000#128 = .ok (.peCounter 12)
    ∧ decode 0x75000400000000000000000000000000#128 = .ok (.peSlot .writeback)
    ∧ decode 0x76001f00000000000000000000000000#128 = .ok (.peReg 31) := by decide

theorem test_encode_writes_every_field :
    encode (.bpResolve 0x100 .taken .unknown) = 0x51600000000000000000000000000100#128
    ∧ encode (.fuIsStageFilled .multiplier 7) = 0x64040700000000000000000000000000#128
    ∧ encode (.ptTrain .lpt 5 .taken) = 0x42410000000000000000000000000005#128 := by decide

/-! ### One operation at a time (95_test_vectors.md, Part 2) -/

-- V-SC3
theorem test_scNew_fits : answer (.scNew 2 3) .reset = ⟨.ok, .counter 2 3⟩ := by decide
theorem test_scNew_too_large : answer (.scNew 2 4) .reset = ⟨.invalidInitializer, .nothing⟩ := by decide

-- V-SC1
theorem test_scInc_clamps : (after (.scInc .sel) trained).pred.sel = 3 := by decide
theorem test_scInc_entry :
    tableFind (after (.scInc (.lpt 5)) trained).pred.lpt (.pattern [.taken, .taken]) = some 3 := by decide
theorem test_scDec_moves : (after (.scDec .sel) trained).pred.sel = 2 := by decide
theorem test_scDec_clamps : answer (.scDec .sel) .reset = ⟨.ok, .number 0⟩ := by decide
theorem test_scValue_entry : answer (.scValue (.gpt 5)) trained = ⟨.ok, .number 3⟩ := by decide
theorem test_scPredicts_above : answer (.scPredicts (.lpt 5)) trained = ⟨.ok, .flag true⟩ := by decide
theorem test_scPredicts_below :
    answer (.scPredicts (.lpt 0x8000000000000000)) trained = ⟨.ok, .flag false⟩ := by decide

-- V-SR1
theorem test_srNew : answer (.srNew 4) .reset
    = ⟨.ok, .register [.unknown, .unknown, .unknown, .unknown]⟩ := by decide
theorem test_srPush_drops_oldest :
    (after (.srPush .ghr .notTaken) { trained with pred := { trained.pred with
      ghr := [.taken, .taken, .notTaken, .taken] } }).pred.ghr
    = [.notTaken, .taken, .taken, .notTaken] := by decide
theorem test_srPattern : answer (.srPattern (.ht 0x100)) trained
    = ⟨.ok, .key (.pattern [.taken, .taken])⟩ := by decide

-- V-HT1
theorem test_htRecord_creates :
    tableFind (after (.htRecord 0x104 .notTaken) trained).pred.ht 0x104 = some [.notTaken, .unknown] := by decide
theorem test_htRecord_pushes :
    tableFind (after (.htRecord 0x100 .notTaken) trained).pred.ht 0x100 = some [.notTaken, .taken] := by decide
theorem test_htPatternFor_unseen : answer (.htPatternFor 0x104) trained = ⟨.ok, .key .nohist⟩ := by decide

-- V-PT1
theorem test_ptPredict_unseen : answer (.ptPredict .lpt 5) .reset = ⟨.ok, .outcome .unknown⟩ := by decide
theorem test_ptPredict_seen : answer (.ptPredict .lpt 5) trained = ⟨.ok, .outcome .taken⟩ := by decide
theorem test_ptTrain_seeds :
    (after (.ptTrain .lpt 4 .taken) .reset).pred.lpt = [(.pattern [.taken, .notTaken], 3)] := by decide
theorem test_ptTrain_wrong_moves_down :
    tableFind (after (.ptTrain .gpt 5 .notTaken) trained).pred.gpt (.pattern [.taken, .taken]) = some 2 := by
  decide

-- V-BP1, V-BP7, V-BP8
theorem test_bpPredict_global : answer (.bpPredict 0x104) trained = ⟨.ok, .outcome .taken⟩ := by decide
theorem test_bpPredict_local :
    answer (.bpPredict 0x104) { trained with pred := { trained.pred with sel := 1 } }
      = ⟨.ok, .outcome .notTaken⟩ := by decide
theorem test_bpResolve_first :
    (after (.bpResolve 0x100 .taken .unknown) .reset).pred
      = { ht := [(0x100, [.taken, .unknown])], lpt := [(.nohist, 1)],
          gpt := [(.pattern [.unknown, .unknown], 1)], ghr := [.taken, .unknown], sel := 1,
          known := 0, unknown := 1, successful := 0, unsuccessful := 0 } := by decide
theorem test_bpResolve_wrong_local :
    (after (.bpResolve 0x100 .notTaken .taken)
      { trained with pred := { trained.pred with sel := 1 } }).pred.sel = 2 := by decide
theorem test_bpStats :
    answer .bpStats { trained with pred := { trained.pred with known := 3, unknown := 3, successful := 3 } }
      = ⟨.ok, .stats 3 3 3 0⟩ := by decide
theorem test_bpClearStats_keeps_tables :
    (after .bpClearStats trained).pred.lpt = trained.pred.lpt := by decide
theorem test_bpClearTables : (after .bpClearTables trained).pred.ghr = [.unknown, .unknown] := by decide

-- V-FU1
theorem test_fuTryAdmit_busy : answer (.fuTryAdmit 0 .adder) busy = ⟨.ok, .rejected .adder⟩ := by decide
theorem test_fuTryAdmit_divider : (after (.fuTryAdmit 0 .divider) .reset).fu.divRem = 23 := by decide
theorem test_fuAdvance_holds_full_unit :
    (after .fuAdvance busy).fu.add = busy.fu.add ∧ (after .fuAdvance busy).fu.divRem = 0 := by decide
theorem test_fuAdvance_moves :
    (after .fuAdvance { busy with fu := { busy.fu with mul := [some fadd, none, none] } }).fu.mul
      = [none, some fadd, none] := by decide
theorem test_fuIsEmpty : answer .fuIsEmpty .reset = ⟨.ok, .flag true⟩ := by decide
theorem test_fuReadyCount : answer .fuReadyCount busy = ⟨.ok, .number 2⟩ := by decide
theorem test_fuIsStageFilled : answer (.fuIsStageFilled .multiplier 1) busy = ⟨.ok, .flag false⟩ := by decide
theorem test_fuIsStageFilled_out_of_range :
    answer (.fuIsStageFilled .adder 3) busy = ⟨.refused, .nothing⟩ := by decide
theorem test_fuInstrAt :
    (answer (.fuInstrAt .divider 1) busy).result = .reference (some (inst 16 (.fpArith .divider) plain)) := by
  decide
theorem test_fuExit_multiplier_first :
    (after .fuExit busy).fu.mul = [none, none, none] ∧ (after .fuExit busy).fu.add = busy.fu.add := by decide
theorem test_fuExit_divider_first :
    (after .fuExit { busy with fu := { busy.fu with divRem := 0 } }).fu.div = none := by decide
theorem test_fuClear : trackerEmpty (after .fuClear busy).fu = true := by decide

-- V-PE1
theorem test_peStep_not_running : (answer .peStep .reset).status = .pipelineNotRunning := by decide
theorem test_peReset_ready : (after .peReset (live Slots.cleared)).status = .ready := by decide
theorem test_peReset_keeps_tables : (after .peReset trained).pred.lpt = trained.pred.lpt := by decide
theorem test_peStart : (after .peStart .reset).status = .running := by decide
theorem test_peStart_twice : (answer .peStart (live Slots.cleared)).status = .refused := by decide
theorem test_peStatus : answer .peStatus .reset = ⟨.ok, .status .ready⟩ := by decide
theorem test_peCounter : answer (.peCounter 1) .reset = ⟨.ok, .number 0⟩ := by decide
theorem test_peSlot : answer (.peSlot .fetch) .reset = ⟨.ok, .slot .empty⟩ := by decide
theorem test_peReg_zero : answer (.peReg 0) .reset = ⟨.ok, .registerPair 0 0⟩ := by decide
theorem test_peReg_out_of_range : (answer (.peReg 32) .reset).status = .refused := by decide

-- 45_pipeline_engine.md, the first cycle of R210
theorem test_peStep_first_fetch :
    (after .peStep (live Slots.cleared)).pc = 4 ∧ (after .peStep (live Slots.cleared)).trace = [0] := by decide

/-! ### For every statement with hypotheses: a state and operands that meet them -/

theorem witness_DecodeOfEncode :
    (Instr.peCounter 12).WellFormed ∧ (Instr.scInc (.lpt 0x8000000000000000)).WellFormed
    ∧ (Instr.ptPredict .gpt 0x2AAAAAAAAAAAAAAA).WellFormed ∧ (Instr.srNew 0).WellFormed := by decide

theorem witness_EncodeOfDecode :
    decode 0x41010000000000002aaaaaaaaaaaaaaa#128 = .ok (.ptPredict .lpt 0x2AAAAAAAAAAAAAAA) := by decide

theorem witness_ReservedPacketsRefused :
    (pending 0#128).params.legal = true ∧ (pending 0#128).fu.WellShaped (pending 0#128).params
    ∧ ∀ w ∈ [0x00000000000000000000000000000000#128, 0x31c00000000000000000000000000000#128,
        0x51700000000000000000000000000000#128, 0x11010000000000003000000000000000#128,
        0x650c0100000000000000000000000000#128, 0x14030000000000000000000000000000#128,
        0x42000000000000000000000000000000#128, 0x22020000000000000000000000000000#128,
        0x75000500000000000000000000000000#128, 0x75000700000000000000000000000000#128,
        0x74000d00000000000000000000000000#128, 0x76002000000000000000000000000000#128,
        0x64000000000000000000000000000000#128, 0x64000500000000000000000000000000#128,
        0x65080200000000000000000000000000#128, 0x70000000000000010000000000000000#128,
        0x70400000000000000000000000000000#128, 0x70100000000000000000000000000000#128,
        0x70040000000000000000000000000000#128, 0x70010000000000000000000000000000#128,
        0x70000100000000000000000000000000#128, 0x70000000000000000000000000000001#128,
        0x11000000000000000000000000000001#128], ReservedPacket (pending w).params w := by
  refine ⟨by decide, by decide, ?_⟩
  intro w hw
  fin_cases hw <;> simp +decide [ReservedPacket]

theorem witness_HostRefusedInternalOperations :
    (pending (encode (.fuExit))).params.legal = true
    ∧ (pending (encode (.fuExit))).inputs = .packet .host (encode .fuExit) :: []
    ∧ Instr.fuExit.WellFormed ∧ Instr.fuExit.opcode.toNat = 0x66
    ∧ (Instr.ptTrain .gpt 5 .taken).WellFormed ∧ (Instr.ptTrain .gpt 5 .taken).opcode.toNat < 0x52
    ∧ Instr.bpStats.WellFormed ∧ Instr.bpStats.opcode.toNat = 0x52
    ∧ Instr.fuIsEmpty.opcode.toNat = 0x62 := by decide

theorem witness_StepRunsDecodedOperation :
    (pending (encode .peStep)).params.legal = true
    ∧ (pending (encode .peStep)).inputs = .packet .host (encode .peStep) :: []
    ∧ decode (encode .peStep) = .ok .peStep ∧ hostMayIssue .peStep = true
    ∧ decodeTableWord 128 0x61000000000000000000000000000000 = some .fuAdvance := by decide

theorem witness_HostInputsBetweenOperations :
    State.reset.params.legal = true ∧ State.reset.inputs = []
    ∧ { State.reset with inputs := [.configure ⟨true, true, 1, 2⟩] }.inputs = .configure ⟨true, true, 1, 2⟩ :: []
    ∧ { State.reset with inputs := [.store 0xFFFFFFFFFFFFFFFC ⟨1, .integer, .oracle⟩] }.inputs
      = .store 0xFFFFFFFFFFFFFFFC ⟨1, .integer, .oracle⟩ :: [] := by decide

theorem witness_PacketKeysOneToOne :
    keyOperand 31 0x2AAAAAAAAAAAAAAA = some (.pattern (List.replicate 31 .unknown))
    ∧ keyWord (.pattern (List.replicate 31 .unknown)) = some 0x2AAAAAAAAAAAAAAA
    ∧ keyOperand 1 0x8000000000000000 = some .nohist ∧ keyOperand 1 4 = none := by decide

theorem witness_ScIncResult :
    localKey trained.params 5 = some (.pattern [.taken, .taken])
    ∧ tableFind trained.pred.lpt (.pattern [.taken, .taken]) = some 2
    ∧ localKey trained.params 0x8000000000000000 = some .nohist ∧ tableFind trained.pred.lpt .nohist = some 0
    ∧ globalKey trained.params 5 = some (.pattern [.taken, .taken])
    ∧ tableFind trained.pred.gpt (.pattern [.taken, .taken]) = some 3 := by decide

theorem witness_ScDecResult :
    localKey trained.params 0x8000000000000000 = some .nohist ∧ tableFind trained.pred.lpt .nohist = some 0
    ∧ globalKey trained.params 5 = some (.pattern [.taken, .taken])
    ∧ tableFind trained.pred.gpt (.pattern [.taken, .taken]) = some 3 := by decide

theorem witness_ScReadsResult :
    counterOperand trained .sel = some (.sel, 2, 3)
    ∧ counterOperand trained (.lpt 0x8000000000000000) = some (.lpt .nohist, 2, 0)
    ∧ counterOperand trained (.gpt 5) = some (.gpt (.pattern [.taken, .taken]), 2, 3) := by decide

theorem witness_CounterMovesSaturate :
    1 ≤ 1 ∧ (0 : Nat) ≤ 2 ^ 1 - 1 ∧ (1 : Nat) ≤ 2 ^ 1 - 1 ∧ counterPredicts 1 1 = true := by decide

theorem witness_SrPushResult :
    trained.pred.ghr ≠ [] ∧ tableFind trained.pred.ht 0x100 = some [.taken, .taken] := by decide

theorem witness_HistoryReadsResult :
    tableFind trained.pred.ht 0x100 = some [.taken, .taken] ∧ tableFind trained.pred.ht 0x104 = none := by decide

theorem witness_HtRecordResult :
    tableFind trained.pred.ht 0x104 = none ∧ 1 ≤ trained.params.wLocal
    ∧ tableFind trained.pred.ht 0x100 = some [.taken, .taken] := by decide

theorem witness_PushesFillHistory :
    1 ≤ 1 ∧ [Outcome.unknown].length = 1 ∧ (∀ o ∈ [Outcome.taken], o ≠ .unknown)
    ∧ 1 ≤ [Outcome.taken].length ∧ [Outcome.taken].length ≤ 1 := by decide

theorem witness_PtPredictResult :
    tableKey trained.params .lpt 0xA = some (.pattern [.unknown, .unknown])
    ∧ tableFind (tableOf trained.pred .lpt) (.pattern [.unknown, .unknown]) = none
    ∧ tableKey trained.params .gpt 5 = some (.pattern [.taken, .taken])
    ∧ tableFind (tableOf trained.pred .gpt) (.pattern [.taken, .taken]) = some 3 := by decide

theorem witness_PtTrainResult :
    Outcome.notTaken ≠ .unknown ∧ localKey trained.params 0x8000000000000000 = some .nohist
    ∧ globalKey trained.params 0xA = some (.pattern [.unknown, .unknown]) := by decide

theorem witness_SeedIsOldestOutcomes :
    Outcome.unknown ∈ [Outcome.taken, .unknown] ∧ Outcome.unknown ∉ [Outcome.taken, .notTaken] ∧ 1 ≤ 1 := by
  decide

theorem witness_BpResolveResult : Outcome.taken ≠ .unknown ∧ Outcome.notTaken ≠ .unknown := by decide

theorem witness_OperandsNamingNothingRefused :
    counterOperand trained (.lpt 0xA) = none ∧ tableFind trained.pred.ht 0x104 = none
    ∧ tableKey trained.params .lpt 0x10 = none ∧ tableKey trained.params .gpt 0x8000000000000000 = none := by
  decide

theorem witness_FuStageQueriesResult :
    1 ≤ (2#8).toNat ∧ (unitStages busy.fu .adder)[(2#8).toNat - 1]? = some (some (inst 4 (.fpArith .adder) plain))
    ∧ (0#8).toNat = 0 ∧ (unitStages busy.fu .adder).length < (3#8).toNat
    ∧ (unitStages busy.fu .divider).length < (2#8).toNat ∧ unitStages busy.fu .adder ≠ [] := by decide

theorem witness_FuExitResult_divider :
    { busy.fu with divRem := 0 }.div = some (inst 16 (.fpArith .divider) plain)
    ∧ { busy.fu with divRem := 0 }.divRem = 0 := by decide

theorem witness_FuExitResult_others :
    ¬(busy.fu.div.isSome ∧ busy.fu.divRem = 0)
    ∧ busy.fu.mul.getLast? = some (some (inst 12 (.fpArith .multiplier) plain))
    ∧ (Tracker.cleared busy.params).mul.getLast?.join = none
    ∧ busy.fu.add.getLast? = some (some (inst 4 (.fpArith .adder) plain))
    ∧ (Tracker.cleared busy.params).add.getLast?.join = none
    ∧ ¬((Tracker.cleared busy.params).div.isSome ∧ (Tracker.cleared busy.params).divRem = 0) := by decide

theorem witness_LatencyOfUnits :
    State.reset.params.legal = true ∧ State.reset.fu.div = none ∧ 23 < State.reset.params.divLatency
    ∧ State.reset.fu.add = List.replicate State.reset.params.addStages none ∧ 3 < State.reset.params.addStages
    ∧ State.reset.fu.mul = List.replicate State.reset.params.mulStages none
    ∧ 6 < State.reset.params.mulStages := by decide

theorem witness_PeReadsResult :
    (31#8).toNat < State.reset.params.nregs ∧ State.reset.regs[(31#8).toNat]? = some ⟨0, 0⟩
    ∧ State.reset.params.nregs ≤ (32#8).toNat ∧ 12 < (13#8).toNat := by decide

theorem witness_PeStepTurnedAway :
    State.reset.status = .ready ∧ { State.reset with status := .halted }.status = .halted
    ∧ { live Slots.cleared with aborted := true }.status = .running
    ∧ { live Slots.cleared with aborted := true }.aborted = true := by decide

theorem witness_PeStepFirstCycle :
    (live Slots.cleared).status = .running ∧ (live Slots.cleared).aborted = false
    ∧ (live Slots.cleared).slots = Slots.cleared
    ∧ (live Slots.cleared).fu = Tracker.cleared (live Slots.cleared).params
    ∧ (live Slots.cleared).term = none := by decide

/-- Every slot holds a conforming instruction. -/
def full : Slots :=
  { fetch := .instr nop, decode := .instr fadd, execute := .instr nop, memory := .instr nop,
    writeback := .instr (inst 0x30 .integer { plain with dest := some 31, value := 7 }) }

theorem witness_PeStepCompletes : (live full).Steps ∧ (live full).AllConform := by decide

theorem witness_PeStepWritesBack :
    (live full).Steps ∧ (live full).AllConform ∧ (live full).NotHalting
    ∧ (live full).slots.writeback = .instr (inst 0x30 .integer { plain with dest := some 31, value := 7 })
    ∧ (inst 0x30 .integer { plain with dest := some 31, value := 7 }).isTerminating = false
    ∧ 31 < (live full).regs.length
    ∧ (live { full with decode := .bubble }).AllConform ∧ (live { full with decode := .bubble }).NotHalting
    ∧ (live { full with decode := .bubble }).slots.writeback = (live full).slots.writeback
    ∧ (live { full with decode := .bubble }).slots.decode.real = false := by decide

/-- A stopping engine whose halt instruction is in `slot[WB]`. -/
def haltInWriteback : State :=
  { live { Slots.cleared with writeback := .instr halt } with status := .stopping }

/-- A stopping engine whose halt instruction is in TERM. -/
def haltInTerm : State := { live Slots.cleared with status := .stopping, term := some halt }

/-- A stopping engine whose halt instruction waits in TERM while the last instruction is in `slot[WB]`, as in
cycle 13 of program P2. -/
def haltBehindLast : State :=
  { live { Slots.cleared with writeback := .instr (inst 0x30 .integer { plain with dest := some 31, value := 7 }) }
    with
    status := .stopping
    term := some halt }

/-- R193: the last instruction is written back in the halting cycle, and both are counted. -/
theorem test_halt_after_last_writeback :
    (after .peStep haltBehindLast).status = .halted ∧ (after .peStep haltBehindLast).cnt.instructions = 2
    ∧ regValue (after .peStep haltBehindLast).regs 31 = 7 := by decide

theorem witness_PeStepHalts :
    (haltInWriteback.Steps ∧ haltInWriteback.slots.writeback = .instr halt ∧ halt.isTerminating = true
      ∧ trackerEmpty haltInWriteback.fu = true ∧ haltInWriteback.slots.memory.real = false)
    ∧ (haltInTerm.Steps ∧ haltInTerm.slots.writeback.real = false ∧ haltInTerm.term = some halt
      ∧ trackerEmpty haltInTerm.fu = true ∧ haltInTerm.slots.memory.real = false)
    ∧ (haltBehindLast.Steps ∧ haltBehindLast.slots.writeback.terminating = false
      ∧ haltBehindLast.slots.writeback.inst.all Inst.conforms = true ∧ haltBehindLast.term = some halt
      ∧ trackerEmpty haltBehindLast.fu = true ∧ haltBehindLast.slots.memory.real = false)
    ∧ halt.behaviour = .conforming plain := by decide

theorem witness_StatusTransitions :
    State.reset.RunningPlain ∧ exec .peStart .reset = .next (after .peStart .reset)
    ∧ (live (decoding halt)).RunningPlain
    ∧ exec .peStep (live (decoding halt)) = .next (after .peStep (live (decoding halt)))
    ∧ (after .peStep (live (decoding halt))).status = .stopping
    ∧ haltInTerm.RunningPlain ∧ exec .peStep haltInTerm = .next (after .peStep haltInTerm)
    ∧ (after .peStep haltInTerm).status = .halted :=
  ⟨by decide, exec_after (by decide), by decide, exec_after (by decide), by decide, by decide,
    exec_after (by decide), by decide⟩

/-- A taken branch to 0x40. -/
def branch : Inst := inst 0x20 .integer { plain with control := .branch true 0x40 }

/-- The engine with a branch in `slot[ID]` that will be taken, or not. -/
def branching (taken : Bool) : State :=
  { live (decoding branch) with collab := { outcomes := [taken], world := 0 } }

theorem witness_PeStepFetchesAtMostOnce :
    (exec .peStep (live Slots.cleared) = .next (after .peStep (live Slots.cleared))
      ∧ (after .peStep (live Slots.cleared)).Stepped (record (live Slots.cleared))
      ∧ (after .peStep (live Slots.cleared)).status = .running)
    ∧ (exec .peStep (branching true) = .next (after .peStep (branching true))
      ∧ (after .peStep (branching true)).Stepped (record (branching true))
      ∧ (record (branching true)).redirect = some 0x40)
    ∧ (exec .peStep haltInWriteback = .next (after .peStep haltInWriteback)
      ∧ (after .peStep haltInWriteback).Stepped (record haltInWriteback)
      ∧ (record haltInWriteback).halt = true) :=
  ⟨⟨exec_after (by decide), by decide, by decide⟩, ⟨exec_after (by decide), by decide, by decide⟩,
    exec_after (by decide), by decide, by decide⟩

/-- A stopping engine whose halt instruction is in `slot[EX]`. -/
def haltInExecute : State := { live { Slots.cleared with execute := .instr halt } with status := .stopping }

theorem witness_PeStepDrainsBubbles :
    (beginCycle haltInExecute).s.status ≠ .running
    ∧ exec .peStep haltInExecute = .next (after .peStep haltInExecute)
    ∧ (after .peStep haltInExecute).Stepped (record haltInExecute)
    ∧ (after .peStep haltInExecute).status ≠ .running ∧ (record haltInExecute).idStall = none
    ∧ (record haltInExecute).redirect = none ∧ (record haltInExecute).halt = false
    ∧ (record haltInExecute).syncImmediate = false :=
  ⟨by decide, exec_after (by decide), by decide, by decide, by decide, by decide, by decide, by decide⟩

theorem witness_HaltSignalledOnce :
    (exec .peStep haltInTerm = .next (after .peStep haltInTerm)
      ∧ (after .peStep haltInTerm).Stepped (record haltInTerm) ∧ (record haltInTerm).halt = true)
    ∧ ({ State.reset with status := .halted } : State).status = .halted ∧ Instr.peStatus ≠ .peReset
    ∧ exec .peStatus { State.reset with status := .halted }
      = .next (after .peStatus { State.reset with status := .halted }) :=
  ⟨⟨exec_after (by decide), by decide, by decide⟩, by decide, by decide, exec_after (by decide)⟩

/-- The engine with `fadd` in `slot[ID]` and a pending write of register 2. -/
def hazardous (c : Conforming) : State :=
  { live (decoding (inst 0x20 (.fpArith .adder) c)) with
    regs := State.reset.regs.set 2 ⟨0, 1⟩ }

theorem witness_PeStepCountsStalls :
    exec .peStep (hazardous { plain with sources := [2] })
      = .next (after .peStep (hazardous { plain with sources := [2] }))
    ∧ (after .peStep (hazardous { plain with sources := [2] })).Stepped
        (record (hazardous { plain with sources := [2] }))
    ∧ (record (hazardous { plain with sources := [2] })).idStall = some .raw :=
  ⟨exec_after (by decide), by decide, by decide⟩

/-- The engine with an exception reported by the instruction in `slot[EX]`, under a policy. -/
def excepting (masked terminate : Bool) : State :=
  { live { Slots.cleared with execute := .instr (inst 0x20 .integer { plain with exception := some 5 }) } with
    cfg := ⟨masked, terminate, 0, 0⟩ }

/-- A running cycle whose executing instruction reports nothing, and one in which nothing executes. -/
theorem witness_PeStepSyncPolicy_quiet :
    (exec .peStep (live full) = .next (after .peStep (live full))
      ∧ (after .peStep (live full)).Stepped (record (live full)) ∧ (live full).ExecutesQuietly)
    ∧ (live Slots.cleared).ExecutesQuietly :=
  ⟨⟨exec_after (by decide), by decide, fun e h => ⟨plain, by cases h; exact ⟨rfl, rfl⟩⟩⟩,
    fun e h => by cases h⟩

/-- A draining engine whose exiting FP instruction reports an exception, the halt instruction in TERM. -/
def exceptingInDrain : State :=
  { live Slots.cleared with
    params := { Config.reference with addStages := 1 }
    status := .stopping
    term := some halt
    fu := { Tracker.cleared Config.reference with
      add := [some (inst 0x20 (.fpArith .adder) { plain with exception := some 5 })] } }

/-- The premises hold while the engine drains, from TERM and from `slot[WB]`. -/
theorem witness_PeStepSyncPolicy_drain :
    exceptingInDrain.Steps ∧ exceptingInDrain.AllConform ∧ exceptingInDrain.NotHalting
    ∧ exceptingInDrain.executing = some (inst 0x20 (.fpArith .adder) { plain with exception := some 5 })
    ∧ { exceptingInDrain with
        term := none, slots := { Slots.cleared with writeback := .instr halt } }.NotHalting := by decide

theorem witness_PeStepSyncPolicy : ∀ masked terminate : Bool,
    (excepting masked terminate).Steps ∧ (excepting masked terminate).AllConform
    ∧ (excepting masked terminate).NotHalting
    ∧ (excepting masked terminate).executing = some (inst 0x20 .integer { plain with exception := some 5 })
    ∧ (excepting masked terminate).cfg.syncMasked = masked
    ∧ (excepting masked terminate).cfg.syncTerminate = terminate := by decide

theorem witness_PeStepAdvancesTracker :
    (exec .peStep (live full) = .next (after .peStep (live full))
      ∧ (after .peStep (live full)).Stepped (record (live full))
      ∧ ¬((record (live full)).halt = true ∨ (record (live full)).syncImmediate = true))
    ∧ (exec .peStep (excepting false true) = .next (after .peStep (excepting false true))
      ∧ (after .peStep (excepting false true)).Stepped (record (excepting false true))
      ∧ (record (excepting false true)).syncImmediate = true) :=
  ⟨⟨exec_after (by decide), by decide, by decide⟩, exec_after (by decide), by decide, by decide⟩

/-- The engine with an addition ready to exit, the input stage filled behind it, and `slot[EX]` filled. -/
def colliding (content : Slot) : State :=
  { live { Slots.cleared with decode := content, execute := .instr nop } with
    params := { Config.reference with addStages := 1 }
    fu := { add := [some fadd], mul := [none, none, none, none, none, none, none],
            div := some (inst 16 (.fpArith .divider) plain), divRem := 3 } }

/-- R196: an exiting FP instruction holds a real instruction in `slot[EX]` and the memory stall is reported,
also when nothing stalls in ID; a held bubble counts nothing. -/
theorem test_memory_stall :
    (record (colliding .empty)).memStall = true ∧ (record (colliding .empty)).idStall = none
    ∧ (after .peStep (colliding .empty)).slots.execute = .instr nop
    ∧ (record { colliding .empty with slots := { Slots.cleared with execute := .bubble } }).memStall = false
    ∧ (after .peStep { colliding .empty with slots := { Slots.cleared with execute := .bubble } }).slots.execute
      = .bubble := by decide

theorem witness_PeStepStructuralStall :
    ((colliding (.instr nop)).Steps ∧ (colliding (.instr nop)).AllConform ∧ (colliding (.instr nop)).NotHalting
      ∧ (colliding (.instr nop)).NotCutShort ∧ (colliding (.instr nop)).slots.decode = .instr nop
      ∧ (colliding (.instr nop)).resourceFree nop = false)
    ∧ (colliding (.instr (inst 20 (.fpArith .divider) plain))).resourceFree
        (inst 20 (.fpArith .divider) plain) = false
    ∧ ((colliding .bubble).slots.decode = .bubble ∧ (fuPeek (colliding .bubble).fu).isSome = true
      ∧ (colliding .bubble).slots.execute.real = true) := by decide

theorem witness_PeStepDecodesByHazards :
    ((hazardous { plain with sources := [2] }).Steps ∧ (hazardous { plain with sources := [2] }).AllConform
      ∧ (hazardous { plain with sources := [2] }).NotHalting
      ∧ (hazardous { plain with sources := [2] }).NotCutShort
      ∧ (hazardous { plain with sources := [2] }).resourceFree
          (inst 0x20 (.fpArith .adder) { plain with sources := [2] }) = true
      ∧ hazardOf (hazardous { plain with sources := [2] }).regsAtDecode { plain with sources := [2] } = some .raw)
    ∧ hazardOf (hazardous plain).regsAtDecode { plain with dest := some 2, checksWaw := true } = some .waw
    ∧ hazardOf (hazardous plain).regsAtDecode { plain with dest := some 31 } = none := by decide

theorem witness_PeStepControlFlow :
    (branching true).Steps ∧ (branching true).AllConform ∧ (branching true).NotHalting
    ∧ (branching true).NotCutShort ∧ (branching true).slots.decode = .instr branch
    ∧ branch.behaviour = .conforming { plain with control := .branch true 0x40 }
    ∧ (branching true).resourceFree branch = true
    ∧ hazardOf (branching true).regsAtDecode { plain with control := .branch true 0x40 } = none
    ∧ (branching true).collab.outcomes = true :: [] ∧ (branching false).collab.outcomes = false :: []
    ∧ hazardOf (branching true).regsAtDecode { plain with control := .jump false 0x40 } = none
    ∧ hazardOf (branching true).regsAtDecode { plain with control := .jump true 0x40 } = none := by decide

/-- The immediate policy alone cuts no cycle short: an executing instruction without an exception meets the
premise of the decoding statements. -/
theorem witness_NotCutShort_immediate_policy :
    ({ live { Slots.cleared with execute := .instr nop } with cfg := ⟨false, true, 0, 0⟩ } : State).NotCutShort
    ∧ ¬(excepting false true).NotCutShort := by decide

/-- R92: the codes of the stall kinds. -/
theorem test_stall_codes :
    [none, some .raw, some .waw, some .divider, some .funit, some .ex, some .memory].map stallKindCode
      = [0, 1, 2, 3, 4, 5, 6]
    ∧ idStallCode none = 0 ∧ idStallCode (some .raw) = 1 ∧ idStallCode (some .ex) = 5 := by decide

/-- R145: a jump that uses the predictor keeps a prediction at its fetch and resolves as taken. -/
theorem test_jump_may_use_predictor :
    (conformingFetch branch { plain with control := .jump true 0x40 } trained).pred
      = bpPredict trained.params trained.pred branch.addr
    ∧ (conformingDecode branch { plain with control := .jump true 0x40 } trained).resolves
      = [{ addr := branch.addr, actual := .taken, predicted := branch.pred }]
    ∧ (conformingDecode branch { plain with control := .jump false 0x40 } trained).resolves = [] := by decide

theorem witness_PeStepMovesFetched :
    exec .peStep (live { Slots.cleared with fetch := .instr branch })
      = .next (after .peStep (live { Slots.cleared with fetch := .instr branch }))
    ∧ (after .peStep (live { Slots.cleared with fetch := .instr branch })).Stepped
        (record (live { Slots.cleared with fetch := .instr branch }))
    ∧ (after .peStep (live { Slots.cleared with fetch := .instr branch })).status = .running
    ∧ (record (live { Slots.cleared with fetch := .instr branch })).idStall = none
    ∧ (record (live { Slots.cleared with fetch := .instr branch })).redirect = none
    ∧ (record (live { Slots.cleared with fetch := .instr branch })).halt = false
    ∧ (record (live { Slots.cleared with fetch := .instr branch })).syncImmediate = false
    ∧ branch.behaviour = .conforming { plain with control := .branch true 0x40 } :=
  ⟨exec_after (by decide), by decide, by decide, by decide, by decide, by decide, by decide, by decide⟩

/-- The cycle a flow goes on with; its start where it does not. -/
def goesOn (s : State) (f : Flow) : Cycle :=
  match f with
  | .go c => c
  | .ends _ => beginCycle s
  | .breach => beginCycle s

/-- The flow goes on. -/
def Flow.goes : Flow → Bool
  | .go _ => true
  | .ends _ => false
  | .breach => false

theorem goes_on {s : State} {f : Flow} (h : Flow.goes f = true) : f = .go (goesOn s f) := by
  cases f <;> simp_all [Flow.goes, goesOn]

/-- Engines with an instruction of unknown hooks in one place. -/
def oracleInMemory : State := live { Slots.cleared with memory := .instr opaqueInst }
def oracleInExecute : State := live { Slots.cleared with execute := .instr opaqueInst }
def oracleInDecode : State := live { Slots.cleared with decode := .instr opaqueInst }
def oracleInFetch : State := live { Slots.cleared with fetch := .instr opaqueInst }
def oracleInTerm : State := { live Slots.cleared with status := .stopping, term := some opaqueInst }

theorem witness_PeStepRefusesBreaches :
    opaqueInst.behaviour = .oracle ∧ opaqueInst.isTerminating = false
    ∧ (live { Slots.cleared with writeback := .instr opaqueInst }).Steps
    ∧ (oracleInTerm.Steps
      ∧ (∃ w, consumeWriteback (beginCycle oracleInTerm).s = some w ∧ w.term = some opaqueInst)
      ∧ trackerEmpty oracleInTerm.fu = true ∧ oracleInTerm.slots.memory.real = false)
    ∧ (oracleInMemory.Steps ∧ ∃ c, oracleInMemory.atMemory = .go c ∧ c.s.slots.memory = .instr opaqueInst)
    ∧ (oracleInExecute.Steps ∧ ∃ c, oracleInExecute.atExecute = .go c ∧ c.s.executing = some opaqueInst)
    ∧ (oracleInDecode.Steps ∧ oracleInDecode.resourceFree opaqueInst = true
      ∧ ∃ c, oracleInDecode.atDecode = .go c ∧ c.s.slots.decode = .instr opaqueInst)
    ∧ (oracleInFetch.Steps
      ∧ ∃ c, oracleInFetch.atFetch = .go c ∧ c.s.status = .running ∧ c.s.slots.fetch = .instr opaqueInst) :=
  ⟨by decide, by decide, by decide, ⟨by decide, ⟨_, rfl, by decide⟩, by decide, by decide⟩,
    ⟨by decide, goesOn oracleInMemory oracleInMemory.atMemory, goes_on (by decide), by decide⟩,
    ⟨by decide, goesOn oracleInExecute oracleInExecute.atExecute, goes_on (by decide), by decide⟩,
    ⟨by decide, by decide, goesOn oracleInDecode oracleInDecode.atDecode, goes_on (by decide), by decide⟩,
    ⟨by decide, goesOn oracleInFetch oracleInFetch.atFetch, goes_on (by decide), by decide, by decide⟩⟩

theorem witness_StepNeverStops :
    State.reset.params.legal = true ∧ (State.powerOn { Config.reference with selInit := 4 }).params.legal = false
    ∧ (State.powerOn { Config.reference with wLocal := 0 }).params.legal = false := by decide

theorem witness_ComponentsWriteTheirOwnState :
    exec .fuAdvance busy = .next (after .fuAdvance busy) ∧ Instr.fuAdvance ≠ .peStep
    ∧ Instr.fuAdvance ≠ .peReset ∧ Instr.fuAdvance ≠ .peStart ∧ 0x60 ≤ Instr.fuAdvance.opcode.toNat
    ∧ exec .bpStats trained = .next (after .bpStats trained) ∧ Instr.bpStats.opcode.toNat < 0x60
    ∧ 0x70 ≤ Instr.peStart.opcode.toNat :=
  ⟨exec_after (by decide), by decide, by decide, by decide, by decide, exec_after (by decide), by decide,
    by decide⟩

/-- The state a step leads to. -/
def next (s : State) : State :=
  match step s with
  | .next t => t
  | .fault _ => s
  | .refused _ => s

/-- The step gives a next state. -/
def stepRuns (s : State) : Bool :=
  match step s with
  | .next _ => true
  | .fault _ => false
  | .refused _ => false

theorem step_next {s : State} (h : stepRuns s = true) : step s = .next (next s) := by
  unfold stepRuns at h
  unfold next
  split at h <;> simp_all

/-- A running engine with a trained predictor, instructions in every slot, and a step pending. -/
def stepping : State :=
  { live full with pred := trained.pred, inputs := [.packet .host (encode .peStep)] }

theorem witness_StepKeepsShape : stepping.WellShaped ∧ step stepping = .next (next stepping) :=
  ⟨by decide, step_next (by decide)⟩

theorem witness_StepKeepsPipeline : stepping.PipelineInv ∧ step stepping = .next (next stepping) :=
  ⟨⟨by decide, by decide, by decide, by decide, by decide, by decide, by decide, by decide⟩,
    step_next (by decide)⟩

theorem witness_ResetMeetsInvariants : State.construct Config.reference = .ok State.reset := rfl

theorem witness_CycleConservesInstructions :
    (branching true).params.legal = true ∧ (branching true).fu.WellShaped (branching true).params
    ∧ ((branching true).slots.writeback.terminating = true → (branching true).term = none)
    ∧ exec .peStep (branching true) = .next (after .peStep (branching true))
    ∧ (after .peStep (branching true)).Stepped (record (branching true)) :=
  ⟨by decide, by decide, by decide, exec_after (by decide), by decide⟩

theorem witness_PredictionSteersNothing :
    (branching true).Steps ∧ (branching true).AllConform
    ∧ (branching true).forget = { branching true with pred := trained.pred }.forget
    ∧ (branching true).pred ≠ trained.pred := by decide

/-- A stopping engine whose halt instruction has just been placed into `slot[EX]`. -/
def haltPlaced : State :=
  { live { Slots.cleared with decode := .bubble, execute := .instr halt, memory := .instr nop } with
    status := .stopping }

theorem witness_HaltsThreeStepsAfterPlacement :
    haltPlaced.status = .stopping ∧ haltPlaced.aborted = false ∧ haltPlaced.AllConform
    ∧ haltPlaced.NotCutShort ∧ haltPlaced.NotHalting ∧ haltPlaced.slots.execute = .instr halt
    ∧ halt.isTerminating = true
    ∧ haltPlaced.slots.decode.real = false ∧ trackerEmpty haltPlaced.fu = true := by decide

end Sys2Proof.Tests
end

