-- ==== Sys2Proof/Proofs/SaturatingCounter.lean ====
section
/-! PROOFS. The operations on saturating counters (40_saturating_counter.md): their packets, the counter an
operand names, and what SC.INC, SC.DEC, SC.VALUE and SC.PREDICTS answer for it. -/

namespace Sys2Proof.Machine

/-! ### Packets of format IK -/

/-- An operation whose fields are those of its counter operand is spelled as format IK says (R96). -/
theorem spelledIK_of_encodeFields {op : BitVec 8} {operation : CounterSel → Instr}
    (h : ∀ c, encodeFields (operation c) = counterFields op c) : SpelledIK op operation := by
  have hsplit : ∀ c, splitPacket (encode (operation c)) = counterFields op c := fun c => by
    rw [encode, splitPacket_joinFields, h]
  exact ⟨hsplit .sel, fun key => ⟨hsplit (.lpt key), hsplit (.gpt key)⟩⟩

/-! ### Table insertion in the terms of the statements -/

theorem tableSet_tableInsert {κ ν : Type} [DecidableEq κ] (rank : κ → Nat) (t : List (κ × ν)) (k : κ)
    (v : ν) : TableSet t (tableInsert rank t k v) k v :=
  fun k' => tableFind_tableInsert rank t k k' v

/-! ### The counter an operand names -/

theorem counterOperand_sel (s : State) :
    counterOperand s .sel = some (.sel, s.params.bSel, s.pred.sel) := rfl

theorem counterOperand_lpt {s : State} {key : Word} {k : PKey} {v : Nat}
    (hkey : localKey s.params key = some k) (hfind : tableFind s.pred.lpt k = some v) :
    counterOperand s (.lpt key) = some (.lpt k, s.params.bLocal, v) := by
  simp [counterOperand, hkey, hfind]

theorem counterOperand_gpt {s : State} {key : Word} {k : PKey} {v : Nat}
    (hkey : globalKey s.params key = some k) (hfind : tableFind s.pred.gpt k = some v) :
    counterOperand s (.gpt key) = some (.gpt k, s.params.bGlobal, v) := by
  simp [counterOperand, hkey, hfind]

/-! ### The operations on a counter that their operand names -/

/-- The answer of an operation that moves the counter `r` to `v` and returns the new value. -/
def State.counterMoved (s : State) (r : CounterRef) (v : Nat) : State :=
  { s with pred := setCounter s.pred r v }.done (.number v)

section NamedCounter

variable {s : State} {c : CounterSel} {r : CounterRef} {bits v : Nat}

theorem exec_scInc (h : counterOperand s c = some (r, bits, v)) :
    exec (.scInc c) s = .next (s.counterMoved r (counterInc bits v)) := by
  simp [exec, execScInc, h, State.counterMoved]

theorem exec_scDec (h : counterOperand s c = some (r, bits, v)) :
    exec (.scDec c) s = .next (s.counterMoved r (counterDec v)) := by
  simp [exec, execScDec, h, State.counterMoved]

theorem exec_scValue (h : counterOperand s c = some (r, bits, v)) :
    exec (.scValue c) s = .next (s.done (.number v)) := by
  simp [exec, execScValue, h]

theorem exec_scPredicts (h : counterOperand s c = some (r, bits, v)) :
    exec (.scPredicts c) s = .next (s.done (.flag (counterPredicts bits v))) := by
  simp [exec, execScPredicts, h]

end NamedCounter

/-- An operation that moves the counter its operand names by `move` (from width and value to the new
value) does so for each kind of counter: the selector, an entry of LPT, an entry of GPT. Nothing but that
counter changes. -/
theorem counterMove_result {operation : CounterSel → Instr} {move : Nat → Nat → Nat} {s : State}
    (hmove : ∀ {c r bits v}, counterOperand s c = some (r, bits, v) →
      exec (operation c) s = .next (s.counterMoved r (move bits v))) :
    exec (operation .sel) s = .next
      ({ s with pred := { s.pred with sel := move s.params.bSel s.pred.sel } }.done
        (.number (move s.params.bSel s.pred.sel)))
    ∧ (∀ key k old, localKey s.params key = some k → tableFind s.pred.lpt k = some old →
        ∃ lpt, TableSet s.pred.lpt lpt k (move s.params.bLocal old)
          ∧ exec (operation (.lpt key)) s = .next
            ({ s with pred := { s.pred with lpt := lpt } }.done (.number (move s.params.bLocal old))))
    ∧ (∀ key k old, globalKey s.params key = some k → tableFind s.pred.gpt k = some old →
        ∃ gpt, TableSet s.pred.gpt gpt k (move s.params.bGlobal old)
          ∧ exec (operation (.gpt key)) s = .next
            ({ s with pred := { s.pred with gpt := gpt } }.done (.number (move s.params.bGlobal old)))) := by
  refine ⟨hmove (counterOperand_sel s), fun key k old hkey hfind => ?_, fun key k old hkey hfind => ?_⟩
  · exact ⟨_, tableSet_tableInsert keyRank _ _ _, hmove (counterOperand_lpt hkey hfind)⟩
  · exact ⟨_, tableSet_tableInsert keyRank _ _ _, hmove (counterOperand_gpt hkey hfind)⟩

/-! ### The statements -/

/-- Settles O10, from what SC.INC does to the counter that its operand names. -/
theorem scIncResult : Obligations.ScIncResult :=
  ⟨spelledIK_of_encodeFields fun _ => rfl, fun _ => counterMove_result (move := counterInc) exec_scInc⟩

/-- Settles O11, from what SC.DEC does to the counter that its operand names. -/
theorem scDecResult : Obligations.ScDecResult :=
  ⟨spelledIK_of_encodeFields fun _ => rfl,
    fun _ => counterMove_result (move := fun _ v => counterDec v) exec_scDec⟩

/-- Settles O12: the two reads of a named counter, with the threshold written as half the range. -/
theorem scReadsResult : Obligations.ScReadsResult := by
  refine ⟨spelledIK_of_encodeFields fun _ => rfl, spelledIK_of_encodeFields fun _ => rfl, ?_⟩
  intro s c r bits v hc
  exact ⟨exec_scValue hc, by rw [exec_scPredicts hc, counterPredicts_eq]⟩

end Sys2Proof.Machine
end

