-- ==== Sys2Proof/Proofs/BranchHistory.lean ====
section
/-! PROOFS. The operations on branch histories (41_history.md): what the two reads answer for a
seen and for an unseen address, and the register that HT.RECORD leaves. -/

namespace Sys2Proof.Machine

/-! ### Packets -/

/-- The fields of an operation's packet are those that the encoder writes. -/
theorem splitPacket_encode (i : Instr) : splitPacket (encode i) = encodeFields i :=
  splitPacket_joinFields _

/-! ### The register an operand or an address names -/

theorem historyOperand_ghr (s : State) : historyOperand s .ghr = some s.pred.ghr := rfl

theorem historyOperand_ht (s : State) (addr : Addr) :
    historyOperand s (.ht addr) = tableFind s.pred.ht addr := rfl

section Address

variable {b : Predictor} {addr : Addr} {h : List Outcome}

theorem htPatternFor_seen (hfind : tableFind b.ht addr = some h) : htPatternFor b addr = .pattern h := by
  simp [htPatternFor, hfind]

theorem htPatternFor_unseen (hfind : tableFind b.ht addr = none) : htPatternFor b addr = .nohist := by
  simp [htPatternFor, hfind]

end Address

/-! ### The reads -/

theorem exec_srPattern {s : State} {r : HistorySel} {h : List Outcome} (hr : historyOperand s r = some h) :
    exec (.srPattern r) s = .next (s.done (.key (.pattern h))) := by
  simp [exec, execSrPattern, hr]

theorem exec_htPatternFor (s : State) (addr : Addr) :
    exec (.htPatternFor addr) s = .next (s.done (.key (htPatternFor s.pred addr))) := rfl

/-! ### HT.RECORD -/

theorem exec_htRecord (s : State) (addr : Addr) (o : Outcome) :
    exec (.htRecord addr o) s
      = .next ({ s with pred := htRecord s.params s.pred addr o }.done .nothing) := rfl

/-- A push into a new register: the outcome, then `Unknown` in every other place. -/
theorem historyPush_historyNew {w : Nat} (o : Outcome) (hw : 1 ≤ w) :
    historyPush (historyNew w) o = o :: List.replicate (w - 1) .unknown := by
  have hne : historyNew w ≠ [] := List.ne_nil_of_length_pos (hw.trans_eq (historyNew_length w).symm)
  rw [historyPush_eq o hne, historyNew, List.dropLast_replicate]

/-- HT.RECORD leaves under its address the register that was there, or a new one, with the outcome pushed;
every other address keeps its register. -/
theorem htRecord_tableSet (p : Params) (b : Predictor) (addr : Addr) (o : Outcome) :
    TableSet b.ht (htRecord p b addr o).ht addr
      (historyPush ((tableFind b.ht addr).getD (historyNew p.wLocal)) o) :=
  tableSet_tableInsert addrRank _ _ _

theorem htRecord_unseen {p : Params} {b : Predictor} {addr : Addr} (o : Outcome)
    (hfind : tableFind b.ht addr = none) (hw : 1 ≤ p.wLocal) :
    TableSet b.ht (htRecord p b addr o).ht addr (o :: List.replicate (p.wLocal - 1) .unknown) := by
  have hset := htRecord_tableSet p b addr o
  rwa [hfind, Option.getD_none, historyPush_historyNew o hw] at hset

theorem htRecord_seen {p : Params} {b : Predictor} {addr : Addr} {h : List Outcome} (o : Outcome)
    (hfind : tableFind b.ht addr = some h) (hne : h ≠ []) :
    TableSet b.ht (htRecord p b addr o).ht addr (o :: h.dropLast) := by
  have hset := htRecord_tableSet p b addr o
  rwa [hfind, Option.getD_some, historyPush_eq o hne] at hset

/-! ### The statements -/

/-- Settles O17: the new history table is the one `htRecord` builds, for an unseen and for a seen address. -/
theorem htRecordResult : Obligations.HtRecordResult := by
  intro s addr o
  refine ⟨splitPacket_encode _, (htRecord s.params s.pred addr o).ht, exec_htRecord s addr o, ?_, ?_⟩
  · exact htRecord_unseen o
  · exact fun _ => htRecord_seen o

/-- Settles O16: the rendering symbol by symbol, then each read from the register that the operand or the
address names. -/
theorem historyReadsResult : Obligations.HistoryReadsResult := by
  refine ⟨splitPacket_encode _, fun _ => ⟨splitPacket_encode _, splitPacket_encode _⟩, fun h => ?_, rfl,
    fun s => ⟨exec_srPattern (historyOperand_ghr s), fun addr => ⟨fun h hseen => ⟨?_, ?_⟩, fun hunseen => ?_⟩⟩⟩
  · refine List.map_congr_left fun o _ => ?_
    cases o <;> rfl
  · exact exec_srPattern ((historyOperand_ht s addr).trans hseen)
  · rw [exec_htPatternFor, htPatternFor_seen hseen]
  · rw [exec_htPatternFor, htPatternFor_unseen hunseen]

end Sys2Proof.Machine
end

/-! PROOFS. PT.PREDICT (42_pattern_table.md): what the prediction is for a seen and for an unseen
pattern, and that the operation only reads. -/

namespace Sys2Proof.Machine

/-! ### The prediction for a pattern -/

section Prediction

variable {bits : Nat} {t : List (PKey × Nat)} {k : PKey}

theorem ptPredict_unseen (hfind : tableFind t k = none) : ptPredict bits t k = .unknown := by
  simp [ptPredict, hfind]

theorem ptPredict_seen {v : Nat} (hfind : tableFind t k = some v) :
    ptPredict bits t k = if 2 ^ (bits - 1) ≤ v then .taken else .notTaken := by
  simp [ptPredict, hfind, counterOutcome, counterPredicts_eq]

end Prediction

/-! ### PT.PREDICT -/

theorem exec_ptPredict {s : State} {t : TableSel} {key : Word} {k : PKey}
    (hkey : tableKey s.params t key = some k) :
    exec (.ptPredict t key) s
      = .next (s.done (.outcome (ptPredict (tableBits s.params t) (tableOf s.pred t) k))) := by
  simp [exec, execPtPredict, hkey]

/-- Settles O19: the operation answers the table's prediction, which is `Unknown` for an unseen pattern and
the threshold's side for a seen one. -/
theorem ptPredictResult : Obligations.PtPredictResult := by
  refine ⟨fun _ => ⟨splitPacket_encode _, splitPacket_encode _⟩, fun s t key k hkey => ⟨fun hunseen => ?_,
    fun v hseen => ?_⟩⟩
  · rw [exec_ptPredict hkey, ptPredict_unseen hunseen]
  · rw [exec_ptPredict hkey, ptPredict_seen hseen]

end Sys2Proof.Machine

/-! PROOFS. BP.PREDICT and BP.STATS (43_branch_predictor.md): which side's entry the prediction comes
from, and that the statistics are entries of the counter map. Both operations only read. -/

namespace Sys2Proof.Machine

/-! ### The side that is read -/

/-- A table's prediction, from the side of the threshold that the pattern's entry is on (R114, R135). -/
theorem ptPredict_eq_elim (bits : Nat) (t : List (PKey × Nat)) (k : PKey) :
    ptPredict bits t k
      = ((tableFind t k).map fun v => decide (2 ^ (bits - 1) ≤ v)).elim .unknown
          fun above => if above then .taken else .notTaken := by
  cases hfind : tableFind t k with
  | none => simp [ptPredict_unseen hfind]
  | some v => simp [ptPredict_seen hfind]

section Selector

variable {p : Params} {b : Predictor}

theorem bpPredict_global (addr : Addr) (hsel : 2 ^ (p.bSel - 1) ≤ b.sel) :
    bpPredict p b addr = ptPredict p.bGlobal b.gpt (.pattern b.ghr) := by
  simp [bpPredict, selectsGlobal, counterPredicts_eq, hsel]

theorem bpPredict_local (addr : Addr) (hsel : ¬ 2 ^ (p.bSel - 1) ≤ b.sel) :
    bpPredict p b addr = ptPredict p.bLocal b.lpt (htPatternFor b addr) := by
  simp [bpPredict, selectsGlobal, counterPredicts_eq, hsel]

end Selector

/-! ### The reads -/

theorem exec_bpPredict (s : State) (addr : Addr) :
    exec (.bpPredict addr) s = .next (s.done (.outcome (bpPredict s.params s.pred addr))) := rfl

theorem exec_bpStats (s : State) :
    exec .bpStats s
      = .next (s.done (.stats s.pred.known s.pred.unknown s.pred.successful s.pred.unsuccessful)) := rfl

/-- PE.COUNTER of an index in the counter map answers the map's entry (R46, R223). -/
theorem exec_peCounter {s : State} {index : BitVec 8} {r : Result}
    (hmap : counterMap s index.toNat = some r) : exec (.peCounter index) s = .next (s.done r) := by
  simp [exec, execPeCounter, hmap]

/-! ### The statements -/

/-- Settles O22: the selector's side decides the table and the key, and that table's entry the answer. -/
theorem bpPredictResult : Obligations.BpPredictResult := by
  refine ⟨fun _ => splitPacket_encode _, fun s addr => ?_⟩
  intro lp entry
  have hlp : htPatternFor s.pred addr = lp := rfl
  have hpredict : bpPredict s.params s.pred addr
      = entry.elim .unknown fun above => if above then .taken else .notTaken := by
    by_cases hsel : 2 ^ (s.params.bSel - 1) ≤ s.pred.sel
    · rw [bpPredict_global addr hsel, ptPredict_eq_elim]
      simp only [entry, if_pos hsel]
    · rw [bpPredict_local addr hsel, ptPredict_eq_elim, hlp]
      simp only [entry, if_neg hsel]
  rw [exec_bpPredict, hpredict]
  match entry with
  | none => rfl
  | some true => rfl
  | some false => rfl

/-- Settles O24: each of the four statistics is the counter map's entry at its index. -/
theorem bpStatsResult : Obligations.BpStatsResult :=
  ⟨splitPacket_encode _, fun s => ⟨exec_bpStats s, exec_peCounter rfl, exec_peCounter rfl,
    exec_peCounter rfl, exec_peCounter rfl⟩⟩

end Sys2Proof.Machine

/-! PROOFS. The draining of the pipeline (45_pipeline_engine.md, R206): where a cycle leaves `pc`, and what
is left of the slots when the IF stage is reached while the engine does not run. -/

namespace Sys2Proof.Machine

/-! ### `pc` up to the ID stage -/

/-- The cycle so far has neither moved `pc` nor redirected. -/
structure Unturned (s : State) (d : Cycle) : Prop where
  pc : d.s.pc = s.pc
  redirect : d.res.redirect = none

/-- No hook moves `pc` (R186). -/
theorem Unturned.hook {s : State} {b : Cycle} (hb : Unturned s b) (out : HookOut) :
    Unturned s { b with s := applyHook b.s out } :=
  ⟨hb.pc, hb.redirect⟩

theorem consumeWriteback_pc {s w : State} (hw : consumeWriteback s = some w) : w.pc = s.pc := by
  rcases consumeWriteback_cases hw with ⟨_, rfl⟩ | ⟨i, _, _, rfl⟩ | ⟨i, t, _, _, ht, rfl⟩
  · rfl
  · rfl
  · obtain ⟨_, rfl⟩ := runOkHook_cases ht
    rfl

theorem wbStage_unturned {s : State} {b d : Cycle} (hb : Unturned s b)
    (hd : wbStage b = .go d ∨ wbStage b = .ends d) : Unturned s d := by
  rcases wbStage_cases (c := b) rfl with e | ⟨w, hw, ⟨e, _⟩ | ⟨i, t, _, _, _, ht, e⟩⟩ <;> rw [e] at hd <;>
    rcases hd with hd | hd <;> cases hd
  · exact ⟨(consumeWriteback_pc hw).trans hb.pc, hb.redirect⟩
  · obtain ⟨_, rfl⟩ := runOkHook_cases ht
    exact ⟨(consumeWriteback_pc hw).trans hb.pc, hb.redirect⟩

theorem memStage_unturned {s : State} {b d : Cycle} (hb : Unturned s b) (hd : memStage b = .go d) :
    Unturned s d := by
  rcases memStage_cases hd with e | ⟨t, e, ⟨_, rfl⟩ | ⟨_, rfl⟩ | ⟨i, u, _, hu, rfl⟩⟩ <;> cases e
  · exact hb
  · exact ⟨hb.pc, hb.redirect⟩
  · obtain ⟨_, rfl⟩ := runOkHook_cases hu
    exact ⟨hb.pc, hb.redirect⟩

theorem raiseSync_unturned {s : State} {b d : Cycle} {k : Option Nat} (hb : Unturned s b)
    (hd : raiseSync b k = .go d ∨ raiseSync b k = .ends d) : Unturned s d := by
  rcases hd with hd | hd
  · obtain ⟨hs, _, hredirect, _⟩ := raiseSync_go hd
    exact ⟨(congrArg State.pc hs).trans hb.pc, hredirect.trans hb.redirect⟩
  · obtain ⟨hs, _, hredirect, _⟩ := raiseSync_ends hd
    exact ⟨(congrArg State.pc hs).trans hb.pc, hredirect.trans hb.redirect⟩

/-- The execute hook and its exception, then a move to `slot[MEM]` (R195). -/
theorem execute_unturned {s t : State} {b d : Cycle} {i : Inst} {k : Option Nat} {move : Cycle → Flow}
    (hb : Unturned s b) (ht : runExecuteHook i b.s = some (k, t))
    (hmove : ∀ {c}, Unturned s c → move c = .go d ∨ move c = .ends d → Unturned s d)
    (hd : (raiseSync { b with s := t } k).andThen move = .go d
      ∨ (raiseSync { b with s := t } k).andThen move = .ends d) : Unturned s d := by
  obtain ⟨rfl, _⟩ := runExecuteHook_cases ht
  have hhook := hb.hook (callHook .execute i b.s)
  rw [Flow.andThen_go, Flow.andThen_ends] at hd
  rcases hd with ⟨e, he, hm⟩ | he | ⟨e, he, hm⟩
  · exact hmove (raiseSync_unturned hhook (.inl he)) (.inl hm)
  · exact raiseSync_unturned hhook (.inr he)
  · exact hmove (raiseSync_unturned hhook (.inl he)) (.inr hm)

theorem moveToMemory_unturned {s : State} {b d : Cycle} (hb : Unturned s b)
    (hd : moveToMemory b = .go d ∨ moveToMemory b = .ends d) : Unturned s d := by
  rcases hd with hd | hd <;> cases hd
  exact ⟨hb.pc, hb.redirect⟩

theorem exitToMemory_unturned {s : State} {b d : Cycle} {f : Inst} (hb : Unturned s b)
    (hd : exitToMemory f b = .go d ∨ exitToMemory f b = .ends d) : Unturned s d := by
  rcases hd with hd | hd <;> cases hd
  refine ⟨hb.pc, ?_⟩
  dsimp only
  split <;> exact hb.redirect

theorem exStage_unturned {s : State} {b d : Cycle} (hb : Unturned s b)
    (hd : exStage b = .go d ∨ exStage b = .ends d) : Unturned s d := by
  rcases exStage_cases (c := b) rfl with e | ⟨_, _, e⟩ | ⟨i, k, t, _, _, ht, e⟩ | ⟨i, k, t, _, ht, e⟩ <;>
    rw [e] at hd
  · rcases hd with hd | hd <;> cases hd
  · exact moveToMemory_unturned hb hd
  · exact execute_unturned hb ht moveToMemory_unturned hd
  · exact execute_unturned hb ht exitToMemory_unturned hd

/-! ### `pc` after the cycle -/

/-- Unless the engine runs on, `pc` is the redirect target, or what it was (R203, R206). -/
def PcAtTarget (s : State) (d : Cycle) : Prop :=
  d.s.status ≠ .running → d.s.pc = d.res.redirect.getD s.pc

theorem Unturned.pcAtTarget {s : State} {d : Cycle} (hd : Unturned s d) : PcAtTarget s d := fun _ => by
  rw [hd.redirect]
  exact hd.pc

theorem ifStage_of_not_running {c : Cycle} (h : c.s.status ≠ .running) :
    ifStage c = .go { c with s := { c.s with slots := { c.s.slots with decode := .bubble } } } :=
  if_neg h

/-- While RUNNING the IF stage leaves the engine RUNNING (R205). -/
theorem ifStage_running {b d : Cycle} (h : b.s.status = .running)
    (hd : ifStage b = .go d ∨ ifStage b = .ends d) : d.s.status = .running := by
  rcases ifStage_cases (c := b) rfl with e | ⟨hn, _⟩ | ⟨_, _, e⟩ | ⟨i, brk, i', t, _, _, ht, e⟩
  · rw [e] at hd
    rcases hd with hd | hd <;> cases hd
  · exact absurd h hn
  · rw [e] at hd
    rcases hd with hd | hd <;> cases hd
    exact h
  · obtain ⟨rfl, _⟩ := runFetchHook_cases ht
    rw [e] at hd
    rcases hd with hd | hd <;> cases hd
    exact h

theorem ifStage_pcAtTarget {s : State} {b d : Cycle} (hb : Unturned s b)
    (hd : ifStage b = .go d ∨ ifStage b = .ends d) : PcAtTarget s d := by
  by_cases h : b.s.status = .running
  · exact fun hn => absurd (ifStage_running h hd) hn
  · rw [ifStage_of_not_running h] at hd
    rcases hd with hd | hd <;> cases hd
    exact Unturned.pcAtTarget ⟨hb.pc, hb.redirect⟩

theorem redirectCycle_pcAtTarget {s : State} {b d : Cycle} {target : Addr}
    (hd : redirectCycle b target = .go d ∨ redirectCycle b target = .ends d) : PcAtTarget s d := by
  obtain ⟨u, e, ⟨hr, rfl⟩ | ⟨_, rfl⟩⟩ := redirectCycle_cases (c := b) (target := target) rfl <;>
    rw [e] at hd <;> rcases hd with hd | hd <;> cases hd
  · exact fun hn => absurd hr hn
  · exact fun _ => rfl

theorem stallCycle_unturned {s : State} {b d : Cycle} {k : Stall} (hb : Unturned s b)
    (hd : stallCycle b k = .go d ∨ stallCycle b k = .ends d) : Unturned s d := by
  rcases hd with hd | hd <;> cases hd
  exact ⟨hb.pc, hb.redirect⟩

theorem Placement.pc {s : State} {i : Inst} {place : State → State} (hp : Placement s i place) (t : State) :
    (place t).pc = t.pc := by
  cases hp <;> rfl

theorem idStage_pcAtTarget {s : State} {b d : Cycle} (hb : Unturned s b)
    (hd : idStage ifStage b = .go d ∨ idStage ifStage b = .ends d) : PcAtTarget s d := by
  rcases idStage_cases (next := ifStage) (c := b) rfl with
    e | ⟨_, e⟩ | ⟨_, _, e⟩ | ⟨_, _, e⟩ | ⟨i, _, ⟨k, e, _⟩ | ⟨place, hp, a, t, ht, hrest⟩⟩
  · rw [e] at hd
    rcases hd with hd | hd <;> cases hd
  · exact ifStage_pcAtTarget hb (e ▸ hd)
  · exact (stallCycle_unturned hb (e ▸ hd)).pcAtTarget
  · exact ifStage_pcAtTarget (b := { b with s := placeBubble b.s }) ⟨hb.pc, hb.redirect⟩ (e ▸ hd)
  · exact (stallCycle_unturned hb (e ▸ hd)).pcAtTarget
  · obtain ⟨rfl, _⟩ := runDecodeHook_cases ht
    have hhook := hb.hook (callHook .decode i b.s)
    have hplace : Unturned s { b with s := place (applyHook b.s (callHook .decode i b.s)) } :=
      ⟨(hp.pc _).trans hhook.pc, hb.redirect⟩
    rcases hrest with ⟨k, _, e⟩ | ⟨_, e⟩ | ⟨target, _, e⟩
    · exact (stallCycle_unturned hhook (e ▸ hd)).pcAtTarget
    · exact ifStage_pcAtTarget hplace (e ▸ hd)
    · exact redirectCycle_pcAtTarget (e ▸ hd)

theorem runCycle_pcAtTarget {s : State} {d : Cycle} (h : runCycle s = .go d ∨ runCycle s = .ends d) :
    PcAtTarget s d :=
  have hbegin : Unturned s (beginCycle s) := ⟨rfl, rfl⟩
  runCycle_stages (Unturned s) (Unturned s) (Unturned s) (PcAtTarget s)
    (fun _ hd => wbStage_unturned hbegin (.inl hd))
    (fun _ hd => (wbStage_unturned hbegin (.inr hd)).pcAtTarget)
    (fun _ _ => memStage_unturned)
    (fun _ _ hb hd => exStage_unturned hb (.inl hd))
    (fun _ _ hb hd => (exStage_unturned hb (.inr hd)).pcAtTarget)
    (fun _ _ => idStage_pcAtTarget) h

/-! ### The slots of a draining cycle -/

/-- A placement out of `slot[ID]` leaves `slot[IF]`. -/
theorem Placed.fetch {b u : State} (h : Placed b u) : u.slots.fetch = b.slots.fetch := by
  cases h with
  | nothing _ hs _ _ => rw [hs]
  | bubble _ _ hs _ _ => rw [hs]
  | unit _ _ _ _ _ hs _ _ => rw [hs]
  | execute _ _ _ _ hs _ _ => rw [hs]

/-- The record of a cycle that reached its IF stage (R204): no halt, no immediate termination, no stall and no
redirect ended it before. -/
structure ReachedFetch (d : Cycle) : Prop where
  stall : d.res.idStall = none
  redirect : d.res.redirect = none
  halt : d.res.halt = false
  immediate : d.res.syncImmediate = false

/-- Of the outcomes of a cycle only one reaches the IF stage and does not end RUNNING: that in which the
stage only puts a bubble into `slot[ID]` (R206). -/
theorem CycleOutcome.drained {s : State} {d : Cycle} (o : CycleOutcome s d) (hd : ReachedFetch d)
    (hn : d.s.status ≠ .running) :
    d.s.slots.decode = .bubble ∧ d.s.slots.fetch = s.slots.fetch ∧ d.s.trace = s.trace := by
  cases o with
  | halts h => exact absurd hd.halt (by simp [h.res])
  | cutShort h => exact absurd hd.immediate (by simp [h.res])
  | full b hb o =>
    cases o with
    | stalled _ _ _ _ hstall => exact absurd hd.stall hstall
    | held u hp _ hs hrest =>
      rw [hs]
      exact ⟨rfl, hp.fetch.trans hb.fetch, hrest.trace.trans hb.trace⟩
    | fetched u x y a _ hu _ _ _ _ _ hstatus => exact absurd (hstatus.trans hu) hn
    | turned u _ _ _ _ _ _ hturn => simp [hd.redirect] at hturn
    | refetched u y a _ hu _ _ _ _ hstatus => exact absurd (hstatus.trans hu) hn

/-! ### The statement -/

/-- Settles O44: the branch of the IF stage outside RUNNING, then the one outcome of a cycle that takes it;
without a redirect `pc` is where it was. -/
theorem peStepDrainsBubbles : Obligations.PeStepDrainsBubbles := by
  refine ⟨fun _ => ifStage_of_not_running, fun s t r hexec hstep hn hstall hredirect hhalt himm => ?_⟩
  obtain ⟨_, _, d, hrun, rfl, rfl⟩ := stepped_cycle hexec hstep
  have hpc : d.s.pc = s.pc := by
    rw [runCycle_pcAtTarget hrun hn, hredirect, Option.getD_none]
  obtain ⟨hdecode, hfetch, htrace⟩ :=
    (runCycle_outcome hrun).drained ⟨hstall, hredirect, hhalt, himm⟩ hn
  exact ⟨hdecode, hfetch, hpc, htrace⟩

end Sys2Proof.Machine

/-! PROOFS. Command packets (30_encoding.md): the decoder and the encoder are inverse to one another on
well-formed operations, code by code and format by format. -/

namespace Sys2Proof

/-! ### The small enumerations -/

@[simp] theorem outcomeOfCode_outcomeCode (o : Outcome) : outcomeOfCode (outcomeCode o) = .ok o := by
  cases o <;> rfl

@[simp] theorem unitOfCode_unitCode (u : FUnit) : unitOfCode (unitCode u) = .ok u := by
  cases u <;> rfl

@[simp] theorem slotOfCode_slotCode (n : SlotName) : slotOfCode (slotCode n) = .ok n := by
  cases n <;> rfl

@[simp] theorem tableOfCode_tableCode (t : TableSel) : tableOfCode (tableCode t) = .ok t := by
  cases t <;> rfl

theorem outcomeCode_of_outcomeOfCode {c : BitVec 2} {o : Outcome} (h : outcomeOfCode c = .ok o) :
    outcomeCode o = c := by
  unfold outcomeOfCode at h
  split_ifs at h with h0 h1 h2 <;> cases h
  · exact h0.symm
  · exact h1.symm
  · exact h2.symm

theorem unitCode_of_unitOfCode {c : BitVec 2} {u : FUnit} (h : unitOfCode c = .ok u) : unitCode u = c := by
  unfold unitOfCode at h
  split_ifs at h with h0 h1 h2 <;> cases h
  · exact h0.symm
  · exact h1.symm
  · exact h2.symm

theorem slotCode_of_slotOfCode {c : BitVec 8} {n : SlotName} (h : slotOfCode c = .ok n) : slotCode n = c := by
  unfold slotOfCode at h
  split_ifs at h with h0 h1 h2 h3 h4 <;> cases h
  · exact h0.symm
  · exact h1.symm
  · exact h2.symm
  · exact h3.symm
  · exact h4.symm

theorem tableCode_of_tableOfCode {c : BitVec 2} {t : TableSel} (h : tableOfCode c = .ok t) :
    tableCode t = c := by
  unfold tableOfCode at h
  split_ifs at h with h1 h2 <;> cases h
  · exact h1.symm
  · exact h2.symm

/-! ### Formats -/

/-- The fields that a format uses, every other field zero (R96). -/
def Format.restrict (fmt : Format) (f : Fields) : Fields :=
  let (useO1, useO2, useUnit, useInst, useN, useA) := fmt.uses
  { op := f.op
    o1 := if useO1 then f.o1 else 0
    o2 := if useO2 then f.o2 else 0
    unit := if useUnit then f.unit else 0
    inst := if useInst then f.inst else 0
    n := if useN then f.n else 0
    reserved := 0
    a := if useA then f.a else 0 }

/-- The unused fields are zero exactly when the fields are those the format uses. -/
theorem Format.unusedZero_iff (fmt : Format) (f : Fields) :
    fmt.unusedZero f = true ↔ fmt.restrict f = f := by
  obtain ⟨op, o1, o2, unit, inst, n, reserved, a⟩ := f
  have swap : ∀ {w : Nat} (x : BitVec w), 0#w = x ↔ x = 0#w := fun _ => eq_comm
  cases fmt <;> simp only [unusedZero, restrict, uses, Fields.mk.injEq, beq_iff_eq, Bool.and_eq_true,
    Bool.true_or, Bool.false_or, BitVec.ofNat_eq_ofNat, swap, if_true, Bool.false_eq_true, if_false, and_true,
    true_and] <;> tauto

theorem withFormat_ok_iff {fmt : Format} {f : Fields} {body : Except DecodeError Instr} {i : Instr} :
    withFormat fmt f body = .ok i ↔ fmt.restrict f = f ∧ body = .ok i := by
  rw [← Format.unusedZero_iff]
  unfold withFormat
  split <;> simp_all

/-! ### Operands in fields -/

theorem counterFields_of_counterOfFields {f : Fields} {c : CounterSel} (h : counterOfFields f = .ok c) :
    counterFields f.op c = Format.restrict .ik f := by
  unfold counterOfFields at h
  split_ifs at h with h0 ha h1 h2 <;> cases h <;>
    simp_all [counterFields, zeroFields, Format.restrict, Format.uses]

theorem historyFields_of_historyOfFields {f : Fields} {r : HistorySel} (h : historyOfFields f = .ok r) :
    historyFields f.op r = Format.restrict .ia f := by
  unfold historyOfFields at h
  split_ifs at h with h0 ha h1 <;> cases h <;>
    simp_all [historyFields, zeroFields, Format.restrict, Format.uses]

/-! ### The decoder on the encoder's fields -/

theorem decodeOperation_encodeFields (i : Instr) : decodeOperation (encodeFields i) = .ok i := by
  cases i with
  | scInc c => cases c <;> rfl
  | scDec c => cases c <;> rfl
  | scValue c => cases c <;> rfl
  | scPredicts c => cases c <;> rfl
  | srPush r o => cases r <;> cases o <;> rfl
  | srPattern r => cases r <;> rfl
  | htRecord addr o => cases o <;> rfl
  | ptPredict t key => cases t <;> rfl
  | ptTrain t key actual => cases t <;> cases actual <;> rfl
  | bpResolve addr actual predicted => cases actual <;> cases predicted <;> rfl
  | fuTryAdmit ref unit => cases unit <;> rfl
  | fuIsStageFilled unit stage => cases unit <;> rfl
  | fuInstrAt unit stage => cases unit <;> rfl
  | peSlot slot => cases slot <;> rfl
  | _ => rfl

theorem decode_encode (i : Instr) : decode (encode i) = checkWellFormed i := by
  rw [decode, Machine.splitPacket_encode, decodeOperation_encodeFields]
  rfl

/-- Settles O1: the decoder reads back what the encoder writes, and lets a well-formed operation pass. -/
theorem decodeOfEncode : Obligations.DecodeOfEncode := fun i hi => by
  rw [decode_encode, checkWellFormed, if_pos hi]

/-! ### The encoder on the decoder's operation -/

/-- A code that is the number `k` is the code `k`. -/
theorem opcode_eq {op : BitVec 8} {k : Nat} (h : op.toNat = k) : op = BitVec.ofNat 8 k :=
  BitVec.eq_of_toNat_eq (by have := op.isLt; simp [← h])

theorem except_map_ok_iff {ε α β : Type} {x : Except ε α} {f : α → β} {b : β} :
    x.map f = .ok b ↔ ∃ a, x = .ok a ∧ f a = b := by
  cases x <;> simp [Except.map]

theorem except_bind_ok_iff {ε α β : Type} {x : Except ε α} {f : α → Except ε β} {b : β} :
    (x >>= f) = .ok b ↔ ∃ a, x = .ok a ∧ f a = .ok b := by
  cases x <;> simp [bind, Except.bind]

/-- An operation that the decoder reads from the fields of one of its formats has exactly those fields. -/
theorem encodeFields_of_decodeOperation {f : Fields} {i : Instr} (h : decodeOperation f = .ok i) :
    encodeFields i = f := by
  unfold decodeOperation at h
  split at h
  case h_33 => cases h
  all_goals
    rename_i hop
    replace hop := opcode_eq hop
    obtain ⟨hf, h⟩ := withFormat_ok_iff.1 h
    rw [← hf]
  case h_2 | h_3 | h_4 | h_5 =>
    obtain ⟨c, hc, rfl⟩ := except_map_ok_iff.1 h
    rw [← counterFields_of_counterOfFields hc, hop]
    rfl
  case h_7 =>
    obtain ⟨r, hr, h⟩ := except_bind_ok_iff.1 h
    obtain ⟨o, ho, h⟩ := except_bind_ok_iff.1 h
    cases h
    have hfields := historyFields_of_historyOfFields hr
    rw [hop] at hfields
    simp [encodeFields, hfields, outcomeCode_of_outcomeOfCode ho, Format.restrict, Format.uses]
  case h_8 =>
    obtain ⟨r, hr, rfl⟩ := except_map_ok_iff.1 h
    rw [← historyFields_of_historyOfFields hr, hop]
    rfl
  case h_12 =>
    obtain ⟨t, ht, h⟩ := except_bind_ok_iff.1 h
    obtain ⟨o, ho, h⟩ := except_bind_ok_iff.1 h
    cases h
    simp [encodeFields, zeroFields, Format.restrict, Format.uses, hop, tableCode_of_tableOfCode ht,
      outcomeCode_of_outcomeOfCode ho]
  case h_14 =>
    obtain ⟨o, ho, h⟩ := except_bind_ok_iff.1 h
    obtain ⟨o', ho', h⟩ := except_bind_ok_iff.1 h
    cases h
    simp [encodeFields, zeroFields, Format.restrict, Format.uses, hop, outcomeCode_of_outcomeOfCode ho,
      outcomeCode_of_outcomeOfCode ho']
  case h_9 =>
    obtain ⟨o, ho, rfl⟩ := except_map_ok_iff.1 h
    simp [encodeFields, zeroFields, Format.restrict, Format.uses, hop, outcomeCode_of_outcomeOfCode ho]
  case h_11 =>
    obtain ⟨t, ht, rfl⟩ := except_map_ok_iff.1 h
    simp [encodeFields, zeroFields, Format.restrict, Format.uses, hop, tableCode_of_tableOfCode ht]
  case h_18 | h_22 | h_23 =>
    obtain ⟨u, hu, rfl⟩ := except_map_ok_iff.1 h
    simp [encodeFields, zeroFields, Format.restrict, Format.uses, hop, unitCode_of_unitOfCode hu]
  case h_31 =>
    obtain ⟨n, hn, rfl⟩ := except_map_ok_iff.1 h
    simp [encodeFields, zeroFields, Format.restrict, Format.uses, hop, slotCode_of_slotOfCode hn]
  all_goals
    cases h
    simp [encodeFields, zeroFields, Format.restrict, Format.uses, hop]

theorem decode_ok_iff {w : Packet} {i : Instr} :
    decode w = .ok i ↔ decodeOperation (splitPacket w) = .ok i ∧ i.WellFormed := by
  unfold decode checkWellFormed
  cases decodeOperation (splitPacket w) with
  | error e => simp [Except.bind]
  | ok j =>
    simp only [Except.bind, Except.ok.injEq]
    split
    · rename_i hj
      simp only [Except.ok.injEq]
      exact ⟨fun h => ⟨h, h ▸ hj⟩, And.left⟩
    · rename_i hj
      simp only [reduceCtorEq, false_iff, not_and]
      exact fun h hi => hj (h ▸ hi)

/-- Settles O2: the fields of an accepted packet are those the encoder writes, and fields and packets
correspond one to one. -/
theorem encodeOfDecode : Obligations.EncodeOfDecode := fun w i h => by
  obtain ⟨hop, hi⟩ := decode_ok_iff.1 h
  exact ⟨hi, by rw [encode, encodeFields_of_decodeOperation hop, joinFields_splitPacket]⟩

end Sys2Proof

/-! PROOFS. What a step does with the oldest pending input (10_state.md, 20_memory.md, 30_encoding.md): a
packet of the host, a packet with a reserved encoding, a change of the configuration or of the source. -/

namespace Sys2Proof

/-- Settles O3: each packet is evaluated. -/
theorem decodeOfWrittenPackets : Obligations.DecodeOfWrittenPackets := by
  unfold Obligations.DecodeOfWrittenPackets
  decide

end Sys2Proof

namespace Sys2Proof.Machine

/-! ### One step, by its input -/

section Input

variable {s : State} {rest : List Input}

theorem step_idle (hp : s.params.legal = true) (hi : s.inputs = []) : step s = .next s := by
  simp [step, hp, hi]

theorem step_configure {c : Cfg} (hp : s.params.legal = true) (hi : s.inputs = .configure c :: rest) :
    step s = .next { s with inputs := rest, cfg := c } := by
  simp [step, hp, hi, configure, State.popInput]

theorem step_store {addr : Addr} {d : Descriptor} (hp : s.params.legal = true)
    (hi : s.inputs = .store addr d :: rest) :
    step s = .next { s with inputs := rest, source := tableInsert addrRank s.source addr d } := by
  simp [step, hp, hi, storeSource, State.popInput]

/-- A packet is refused, or runs the operation that it spells for its origin. -/
theorem step_packet {origin : Origin} {w : Packet} (hp : s.params.legal = true)
    (hi : s.inputs = .packet origin w :: rest) :
    step s = (admitPacket origin w).elim (.next { s with inputs := rest }.refuse)
      fun i => exec i { s with inputs := rest } := by
  cases ha : admitPacket origin w <;> simp [step, hp, hi, ha, State.popInput]

end Input

theorem admitPacket_eq_some_iff {origin : Origin} {w : Packet} {i : Instr} :
    admitPacket origin w = some i ↔ decode w = .ok i ∧ (origin = .internal ∨ hostMayIssue i = true) := by
  unfold admitPacket
  cases hd : decode w with
  | error e => simp
  | ok j =>
    cases origin with
    | internal => simp
    | host =>
      by_cases hj : hostMayIssue j = true
      · simp only [hj, if_true, Option.some.injEq, Except.ok.injEq, reduceCtorEq, false_or]
        exact ⟨fun h => ⟨h, h ▸ hj⟩, And.left⟩
      · simp only [hj, Bool.false_eq_true, if_false, Except.ok.injEq, reduceCtorEq, false_or, false_iff, not_and]
        exact fun h hi => hj (h ▸ hi)

theorem admitPacket_encode (i : Instr) (hi : i.WellFormed) :
    admitPacket .host (encode i) = if hostMayIssue i then some i else none := by
  rw [admitPacket, decode_encode, checkWellFormed, if_pos hi]

/-- The host's operations are those of the codes from 0x52, but for seven. -/
theorem hostMayIssue_eq (i : Instr) :
    hostMayIssue i = !decide (i.opcode.toNat < 0x52 ∨ i.opcode.toNat ∈ [0x53, 0x54, 0x60, 0x61, 0x66, 0x67]) := by
  cases i <;> rfl

/-- Settles O5: the packet decodes to the operation, and the codes below 0x52 and the seven listed are those
the host may not issue. -/
theorem hostRefusedInternalOperations : Obligations.HostRefusedInternalOperations := by
  intro s i rest hp hi hinput
  rw [step_packet hp hinput, admitPacket_encode i hi, hostMayIssue_eq]
  split <;> simp_all

/-- Settles O6: the admitted operation is the decoded one; a placed packet is the oldest input, from inside. -/
theorem stepRunsDecodedOperation : Obligations.StepRunsDecodedOperation := by
  have hrun : ∀ (s : State) (origin : Origin) (w : Packet) (rest : List Input) (i : Instr),
      s.params.legal = true → s.inputs = .packet origin w :: rest → decode w = .ok i →
      (origin = .internal ∨ hostMayIssue i = true) → step s = exec i { s with inputs := rest } := by
    intro s origin w rest i hp hi hd ho
    rw [step_packet hp hi, admitPacket_eq_some_iff.2 ⟨hd, ho⟩]
    rfl
  refine ⟨hrun, fun s nbits w i hp hd => ?_⟩
  have hdecode : decode (packetOfTableWord nbits w) = .ok i := by
    unfold decodeTableWord at hd
    split at hd
    · rename_i hj
      exact hj.trans (congrArg _ (Option.some.inj hd))
    · cases hd
  exact hrun (s.withFetchWord nbits w) .internal _ s.inputs i hp rfl hdecode (.inl rfl)

/-- Settles O7, input by input; a fetch reads the source through `tableFind`. -/
theorem hostInputsBetweenOperations : Obligations.HostInputsBetweenOperations := by
  intro s hp
  refine ⟨step_idle hp, fun c rest => step_configure hp, fun addr d rest hi => ?_⟩
  refine ⟨_, _, step_store hp hi, rfl, tableSet_tableInsert addrRank _ _ _, ?_⟩
  simp [fetchInst]

/-! ### Reserved encodings (R99) -/

/-- No symbol code of a well-formed key without the NOHIST flag is reserved. -/
theorem not_reservedSymbol_of_keyOk {key : Word} (hk : keyOk key = true) :
    ¬(key[63] = false ∧ ∃ k < 31, key.extractLsb' (2 * k) 2 = 3#2) := by
  rintro ⟨hflag, k, hk31, hsymbol⟩
  have hcodes : keyCodesOk key = true := by
    simp only [keyOk, BitVec.getLsbD_eq_getElem (show 63 < 64 by omega), hflag, Bool.false_eq_true, if_false,
      Bool.and_eq_true] at hk
    exact hk.2
  simp only [keyCodesOk, List.all_eq_true, List.mem_range, bne_iff_ne] at hcodes
  exact hcodes k (by omega) hsymbol

/-- The operands of an operation that the block's parameters put out of range (R99): a register index, or a
stage number of a functional unit. -/
def OutOfRange (p : Params) (i : Instr) : Prop :=
  (∃ r, i = .peReg r ∧ p.nregs ≤ r.toNat)
  ∨ ∃ u stage, (i = .fuIsStageFilled u stage ∨ i = .fuInstrAt u stage)
    ∧ (stage.toNat = 0 ∨ stageCount p (unitCode u) < stage.toNat)

/-- What is reserved in the packet of a well-formed operation is an operand out of range. -/
theorem outOfRange_of_reservedPacket {p : Params} {i : Instr} (hi : i.WellFormed)
    (h : ReservedPacket p (encode i)) : OutOfRange p i := by
  simp only [ReservedPacket, splitPacket_encode] at h
  cases i
  case scInc c | scDec c | scValue c | scPredicts c =>
    cases c <;> simp [encodeFields, zeroFields, counterFields, opcodes] at h
    all_goals exact absurd h (not_reservedSymbol_of_keyOk hi)
  case srPush r o =>
    cases r <;> cases o <;> simp [encodeFields, zeroFields, historyFields, outcomeCode, opcodes] at h
  case srPattern r => cases r <;> simp [encodeFields, zeroFields, historyFields, opcodes] at h
  case htRecord a o => cases o <;> simp [encodeFields, zeroFields, outcomeCode, opcodes] at h
  case ptPredict t key =>
    cases t <;> simp [encodeFields, zeroFields, tableCode, opcodes] at h
    all_goals exact absurd h (not_reservedSymbol_of_keyOk hi)
  case ptTrain t key o =>
    cases t <;> cases o <;> simp [encodeFields, zeroFields, tableCode, outcomeCode, opcodes] at h
    all_goals exact absurd h (not_reservedSymbol_of_keyOk hi)
  case bpResolve a o o' =>
    cases o <;> cases o' <;> simp [encodeFields, zeroFields, outcomeCode, opcodes] at h
  case fuTryAdmit ref u => cases u <;> simp [encodeFields, zeroFields, unitCode, opcodes] at h
  case fuIsStageFilled u stage | fuInstrAt u stage =>
    refine .inr ⟨u, stage, by simp, ?_⟩
    cases u <;> simpa [encodeFields, zeroFields, unitCode, opcodes] using h
  case peCounter n =>
    simp [encodeFields, zeroFields, opcodes] at h
    simp [Instr.WellFormed, Instr.wellFormed] at hi
    omega
  case peSlot n => cases n <;> simp [encodeFields, zeroFields, slotCode, opcodes] at h
  case peReg r => exact .inl ⟨r, rfl, by simpa [encodeFields, zeroFields, opcodes] using h⟩
  all_goals simp [encodeFields, zeroFields, opcodes] at h

theorem registerOperand_none {p : Params} {r : BitVec 8} (h : p.nregs ≤ r.toNat) :
    registerOperand p r = none :=
  if_neg (Nat.not_lt.2 h)

theorem stageOperand_none {t : Tracker} {u : FUnit} {stage : BitVec 8}
    (h : stage.toNat = 0 ∨ (unitStages t u).length < stage.toNat) : stageOperand t u stage = none := by
  unfold stageOperand
  split
  · rfl
  · exact List.getElem?_eq_none (by omega)

theorem unitStages_length {p : Params} {t : Tracker} (ht : t.WellShaped p) (u : FUnit) :
    (unitStages t u).length = stageCount p (unitCode u) := by
  obtain ⟨hadd, hmul, _⟩ := ht
  cases u
  · exact hadd
  · exact hmul
  · rfl

section StageRefused

variable {s : State} {u : FUnit} {stage : BitVec 8}

theorem exec_fuIsStageFilled_none (h : stageOperand s.fu u stage = none) :
    exec (.fuIsStageFilled u stage) s = .next s.refuse := by
  simp [exec, execFuIsStageFilled, h]

theorem exec_fuInstrAt_none (h : stageOperand s.fu u stage = none) :
    exec (.fuInstrAt u stage) s = .next s.refuse := by
  simp [exec, execFuInstrAt, h]

end StageRefused

theorem exec_peReg_none {s : State} {r : BitVec 8} (h : registerOperand s.params r = none) :
    exec (.peReg r) s = .next s.refuse := by
  simp [exec, execPeReg, h]

theorem exec_of_outOfRange {s : State} {i : Instr} (hfu : s.fu.WellShaped s.params)
    (h : OutOfRange s.params i) : exec i s = .next s.refuse := by
  rcases h with ⟨r, rfl, hr⟩ | ⟨u, stage, hi, hstage⟩
  · exact exec_peReg_none (registerOperand_none hr)
  · rw [← unitStages_length hfu] at hstage
    rcases hi with rfl | rfl
    · exact exec_fuIsStageFilled_none (stageOperand_none hstage)
    · exact exec_fuInstrAt_none (stageOperand_none hstage)

/-- Settles O4: the decoder accepts only packets of well-formed operations, so all that can still be reserved
is an operand that the parameters put out of range, and such an operation is refused. -/
theorem reservedPacketsRefused : Obligations.ReservedPacketsRefused := by
  intro s origin w rest hp hfu hi hw
  rw [step_packet hp hi]
  cases ha : admitPacket origin w with
  | none => rfl
  | some i =>
    obtain ⟨hd, _⟩ := admitPacket_eq_some_iff.1 ha
    obtain ⟨hwf, rfl⟩ := encodeOfDecode w i hd
    exact exec_of_outOfRange (s := { s with inputs := rest }) hfu (outOfRange_of_reservedPacket hwf hw)

/-! ### Pattern keys (R84, R85) -/

/-- The symbols of a pattern behind the number `a`. -/
theorem symbols_foldl (h : List Outcome) (a : Nat) :
    h.foldl (fun acc o => 4 * acc + (outcomeCode o).toNat) a = a * 4 ^ h.length + patternVector h := by
  induction h generalizing a with
  | nil => simp [patternVector]
  | cons o r ih =>
    simp only [patternVector, List.foldl_cons, List.length_cons]
    rw [ih, ih (4 * 0 + _)]
    ring

theorem patternVector_cons (o : Outcome) (r : List Outcome) :
    patternVector (o :: r) = (outcomeCode o).toNat * 4 ^ r.length + patternVector r := by
  simpa [patternVector] using symbols_foldl r (4 * 0 + (outcomeCode o).toNat)

theorem patternVector_lt (h : List Outcome) : patternVector h < 4 ^ h.length := by
  simpa [patternVector] using (symbols_bounds h 0).2

theorem extractLsb'_symbol (a : Word) (k : Nat) : (a.extractLsb' (2 * k) 2).toNat = a.toNat / 4 ^ k % 4 := by
  simp [BitVec.extractLsb'_toNat, Nat.shiftRight_eq_div_pow, pow_mul]

theorem outcomeOfCode_ok_iff {c : BitVec 2} {o : Outcome} :
    outcomeOfCode c = .ok o ↔ (outcomeCode o).toNat = c.toNat := by
  constructor
  · exact fun h => congrArg _ (outcomeCode_of_outcomeOfCode h)
  · intro h
    rw [← BitVec.eq_of_toNat_eq h, outcomeOfCode_outcomeCode]

theorem keySymbols_succ_eq_some_iff {k : Nat} {a : Word} {h : List Outcome} :
    keySymbols (k + 1) a = some h
      ↔ ∃ o r, h = o :: r ∧ (outcomeCode o).toNat = a.toNat / 4 ^ k % 4 ∧ keySymbols k a = some r := by
  simp only [← extractLsb'_symbol, ← outcomeOfCode_ok_iff, keySymbols]
  cases hc : outcomeOfCode (a.extractLsb' (2 * k) 2) <;> cases hr : keySymbols k a <;> simp [eq_comm]

/-- The symbols read from a word are the pattern whose vector is in the word's low bits. -/
theorem keySymbols_eq_some_iff {w : Nat} {a : Word} {h : List Outcome} :
    keySymbols w a = some h ↔ h.length = w ∧ patternVector h = a.toNat % 4 ^ w := by
  induction w generalizing h with
  | zero => cases h <;> simp [keySymbols, patternVector, Nat.mod_one]
  | succ k ih =>
    rw [keySymbols_succ_eq_some_iff]
    have hsplit : a.toNat % 4 ^ (k + 1) = a.toNat / 4 ^ k % 4 * 4 ^ k + a.toNat % 4 ^ k := by
      rw [pow_succ, Nat.mod_mul, Nat.add_comm, Nat.mul_comm]
    cases h with
    | nil => simp
    | cons o r =>
      simp only [List.cons.injEq, ih, List.length_cons, patternVector_cons, hsplit]
      constructor
      · rintro ⟨_, _, ⟨rfl, rfl⟩, ho, hlen, hr⟩
        exact ⟨by rw [hlen], by rw [ho, hr, hlen]⟩
      · rintro ⟨hlen, hvec⟩
        obtain rfl : r.length = k := by omega
        have hr := patternVector_lt r
        have ha := Nat.mod_lt a.toNat (show 0 < 4 ^ r.length by positivity)
        have hlow : patternVector r = a.toNat % 4 ^ r.length := by
          have := congrArg (· % 4 ^ r.length) hvec
          simpa [Nat.add_mod, Nat.mod_eq_of_lt hr, Nat.mod_eq_of_lt ha] using this
        have hhigh : (outcomeCode o).toNat = a.toNat / 4 ^ r.length % 4 := by
          rw [hlow] at hvec
          exact Nat.eq_of_mul_eq_mul_right (show 0 < 4 ^ r.length by positivity) (by omega)
        exact ⟨o, r, ⟨rfl, rfl⟩, hhigh, rfl, hlow⟩

theorem pow_four_le {w : Nat} (hw : w ≤ 31) : 4 ^ w ≤ 4 ^ 31 := Nat.pow_le_pow_right (by omega) hw

theorem keyOperand_nohist_iff {w : Nat} {a : Word} (hw : w ≤ 31) :
    keyOperand w a = some .nohist ↔ a = nohistWord := by
  unfold keyOperand
  rw [if_neg (by omega)]
  split_ifs with ha <;> simp [ha]

theorem keyOperand_pattern_iff {w : Nat} {a : Word} {h : List Outcome} (hw : w ≤ 31) :
    keyOperand w a = some (.pattern h) ↔ a.toNat < 4 ^ w ∧ h.length = w ∧ patternVector h = a.toNat := by
  have hpow := pow_four_le hw
  unfold keyOperand
  rw [if_neg (by omega)]
  split_ifs with ha hlt
  · have hbig : a.toNat = 2 ^ 63 := by rw [ha]; rfl
    simp only [Option.some.injEq, reduceCtorEq, false_iff, not_and]
    omega
  · simp [keySymbols_eq_some_iff, hlt, Nat.mod_eq_of_lt hlt]
  · simp [hlt]

/-- Settles O8, for the sentinel and for a pattern, whose vector fits a packet key. -/
theorem packetKeysOneToOne : Obligations.PacketKeysOneToOne := by
  intro w a k hw
  cases k with
  | nohist =>
    rw [keyOperand_nohist_iff hw]
    simp [keyWord, localKeyFits, nohistWord, eq_comm]
  | pattern h =>
    rw [keyOperand_pattern_iff hw]
    simp only [keyWord, localKeyFits, beq_iff_eq]
    constructor
    · rintro ⟨_, rfl, hvec⟩
      simp [hw, hvec]
    · rintro ⟨hword, rfl⟩
      rw [if_pos hw, Option.some.injEq] at hword
      have hlt := patternVector_lt h
      have hpow := pow_four_le hw
      have hvec : a.toNat = patternVector h := by
        rw [← hword, BitVec.toNat_ofNat]
        exact Nat.mod_eq_of_lt (by omega)
      exact ⟨hvec ▸ hlt, rfl, hvec.symm⟩

end Sys2Proof.Machine

/-! PROOFS. Counters, histories, pattern tables and the predictor (40 to 43): what the operations on them
answer, what sequences of moves and pushes leave, and which operands are refused. -/

namespace Sys2Proof.Machine

/-! ### Saturating counters -/

/-- Settles O9: the two cases of `counterNew`. -/
theorem scNewResult : Obligations.ScNewResult := by
  intro bits init s
  by_cases h : 1 ≤ bits.toNat ∧ init.toNat ≤ 2 ^ bits.toNat - 1
  · have hn : ¬(bits.toNat < 1 ∨ init.toNat > 2 ^ bits.toNat - 1) := by omega
    simp only [exec, execScNew, counterNew, if_neg hn, if_pos h]
    rfl
  · have hn : bits.toNat < 1 ∨ init.toNat > 2 ^ bits.toNat - 1 := by omega
    simp only [exec, execScNew, counterNew, if_pos hn, if_neg h]
    rfl

theorem two_le_two_pow {bits : Nat} (h : 1 ≤ bits) : 2 ≤ 2 ^ bits :=
  Nat.pow_le_pow_right (n := 2) (by omega) h

theorem counterInc_eq (bits v : Nat) : counterInc bits v = min (v + 1) (2 ^ bits - 1) := rfl

theorem counterDec_eq (v : Nat) : counterDec v = v - 1 := rfl

theorem counterMoves_le {bits : Nat} (moves : List Bool) {v : Nat} (h : v ≤ 2 ^ bits - 1) :
    moves.foldl (fun v up => if up then counterInc bits v else counterDec v) v ≤ 2 ^ bits - 1 := by
  induction moves generalizing v with
  | nil => exact h
  | cons up rest ih =>
    refine ih ?_
    cases up
    · exact counterDec_le h
    · exact counterInc_le bits v

theorem counterInc_iterate (bits : Nat) {v : Nat} (h : v ≤ 2 ^ bits - 1) (n : Nat) :
    (counterInc bits)^[n] v = min (v + n) (2 ^ bits - 1) := by
  induction n with
  | zero => simpa using h
  | succ n ih =>
    rw [Function.iterate_succ_apply', ih, counterInc_eq]
    omega

theorem counterDec_iterate (v n : Nat) : counterDec^[n] v = v - n := by
  induction n with
  | zero => rfl
  | succ n ih =>
    rw [Function.iterate_succ_apply', ih, counterDec_eq]
    omega

theorem counterPredicts_mono {bits v v' : Nat} (hle : v ≤ v') (h : counterPredicts bits v = true) :
    counterPredicts bits v' = true := by
  rw [counterPredicts_eq, decide_eq_true_eq] at h ⊢
  exact h.trans hle

/-- Settles O13: (a) by induction on the moves, (d) in closed form, the others by arithmetic. -/
theorem counterMovesSaturate : Obligations.CounterMovesSaturate := by
  intro bits hbits
  have htwo := two_le_two_pow hbits
  refine ⟨fun moves v h => counterMoves_le moves h, fun v h => ?_, fun v v' => counterPredicts_mono,
    fun v h => ?_, fun v h => ?_⟩
  · simp only [counterInc_eq, counterDec_eq]
    omega
  · rw [counterInc_iterate bits h, counterDec_iterate]
    omega
  · simp only [counterInc_eq, counterDec_eq]
    constructor <;> split <;> omega

/-! ### Histories -/

/-- Settles O14: the two cases of the width. -/
theorem srNewResult : Obligations.SrNewResult := by
  intro width s
  by_cases h : 1 ≤ width.toNat
  · simp only [exec, execSrNew, if_neg (Nat.not_lt.2 h), if_pos h]
    rfl
  · simp only [exec, execSrNew, if_pos (Nat.lt_of_not_le h), if_neg h]
    rfl

theorem exec_srPush {s : State} {r : HistorySel} {h : List Outcome} (o : Outcome)
    (hr : historyOperand s r = some h) :
    exec (.srPush r o) s
      = .next ({ s with pred := setHistory s.pred r (historyPush h o) }.done .nothing) := by
  simp [exec, execSrPush, hr]

/-- Settles O15, for GHR and for the register of a seen address. -/
theorem srPushResult : Obligations.SrPushResult := by
  intro s o
  refine ⟨fun hne => ?_, fun addr h hfind hne => ?_⟩
  · rw [exec_srPush o (historyOperand_ghr s), historyPush_eq o hne]
    rfl
  · rw [exec_srPush o ((historyOperand_ht s addr).trans hfind), historyPush_eq o hne]
    exact ⟨_, tableSet_tableInsert addrRank _ _ _, rfl⟩

/-- Pushes leave the newest outcomes of what was pushed and of what was there (R123). -/
theorem foldl_historyPush (outcomes h : List Outcome) :
    outcomes.foldl historyPush h = (outcomes.reverse ++ h).take h.length := by
  induction outcomes generalizing h with
  | nil => simp
  | cons o rest ih =>
    rw [List.foldl_cons, ih, historyPush_length, historyPush]
    simp only [List.reverse_cons, List.append_assoc, List.singleton_append, List.take_append, List.take_take]
    congr 2
    omega

theorem hasUnknown_eq_false_iff {h : List Outcome} :
    hasUnknown h = false ↔ ∀ o ∈ h, o ≠ .unknown := by
  simp [hasUnknown]

/-- Settles O18 from the closed form of a sequence of pushes. -/
theorem pushesFillHistory : Obligations.PushesFillHistory := by
  rintro w h outcomes hw rfl
  refine ⟨?_, fun o => ?_, fun hknown hlen => ?_, fun hlen => ?_⟩
  · simp [foldl_historyPush]
  · rw [historyPush_eq o (List.ne_nil_of_length_pos hw)]
    rfl
  · rw [foldl_historyPush, hasUnknown_eq_false_iff, List.take_append_of_le_length (by simpa using hlen)]
    exact fun o ho => hknown o (List.mem_reverse.1 (List.mem_of_mem_take ho))
  · rw [foldl_historyPush, historyNew_length, List.take_append, List.take_of_length_le (by simpa using hlen)]
    simp [historyNew]

/-! ### Pattern tables -/

/-- PT.TRAIN of a known outcome sets the key's counter, which an unseen key has from its seed (R136). -/
theorem ptTrain_tableSet (bits : Nat) (t : List (PKey × Nat)) (k : PKey) {actual : Outcome}
    (h : actual ≠ .unknown) :
    TableSet t (ptTrain bits t k actual) k
      (movedBy bits ((tableFind t k).getD (seedOf bits k)) actual) := by
  rw [← trainCounter_eq _ _ h]
  exact tableSet_tableInsert keyRank _ _ _

theorem exec_ptTrain {s : State} {t : TableSel} {key : Word} {k : PKey} {actual : Outcome}
    (hkey : tableKey s.params t key = some k) (h : actual ≠ .unknown) :
    exec (.ptTrain t key actual) s = .next ({ s with
      pred := setTable s.pred t (ptTrain (tableBits s.params t) (tableOf s.pred t) k actual) }.done
        .nothing) := by
  simp [exec, execPtTrain, hkey, h]

/-- Settles O20, for each of the two tables. -/
theorem ptTrainResult : Obligations.PtTrainResult := by
  intro s key k actual h
  refine ⟨fun hkey => ⟨_, exec_ptTrain (t := .lpt) hkey h, ?_⟩, fun hkey => ⟨_, exec_ptTrain (t := .gpt) hkey h, ?_⟩⟩
  · exact ptTrain_tableSet _ _ _ h
  · exact ptTrain_tableSet _ _ _ h

theorem patternValue_append (l : List Outcome) (o : Outcome) :
    patternValue (l ++ [o]) = 2 * patternValue l + (if o = .taken then 1 else 0) := by
  simp [patternValue]

/-- The `k`-th oldest outcome is bit `k` of a pattern's value (R84). -/
theorem patternValue_testBit (h : List Outcome) (k : Nat) :
    (patternValue h).testBit k = decide (h.reverse[k]? = some .taken) := by
  induction h using List.reverseRecOn generalizing k with
  | nil => simp [patternValue]
  | append_singleton l o ih =>
    rw [patternValue_append, List.reverse_append, List.reverse_singleton, List.singleton_append]
    cases k with
    | zero => cases o <;> simp [Nat.testBit_zero]
    | succ k =>
      have hhalf : (2 * patternValue l + if o = .taken then 1 else 0) / 2 = patternValue l := by
        split <;> omega
      rw [Nat.testBit_succ, hhalf, ih, List.getElem?_cons_succ]

/-- Settles O21: the seed is the pattern's value cut to the counter's width, bit by bit. -/
theorem seedIsOldestOutcomes : Obligations.SeedIsOldestOutcomes := by
  refine fun bits => ⟨rfl, fun h => ⟨fun hu => ?_, fun hu k => ?_, fun hbits => ?_⟩⟩
  · have : hasUnknown h = true := by simpa [hasUnknown] using hu
    simp [seedOf, this]
  · have : hasUnknown h = false := hasUnknown_eq_false_iff.2 fun o ho hou => hu (hou ▸ ho)
    simp only [seedOf, this, Bool.false_eq_true, if_false, Nat.testBit_mod_two_pow, patternValue_testBit,
      Bool.decide_and]
  · have hle := seedOf_le bits (.pattern h)
    exact if_neg (by omega)

/-! ### The branch predictor -/

theorem exec_bpResolve {actual : Outcome} (s : State) (addr : Addr) (predicted : Outcome)
    (h : actual ≠ .unknown) :
    exec (.bpResolve addr actual predicted) s
      = .next ({ s with pred := bpResolve s.params s.pred addr actual predicted }.done .nothing) := by
  simp [exec, execBpResolve, h]

/-- The selector moves up exactly when the predictor used was global and right, or local and not right
(R151). -/
theorem selectorUpdate_eq (p : Params) (b : Predictor) (right : Prop) [Decidable right] :
    selectorUpdate p.bSel b.sel (selectsGlobal p b) (decide right)
      = if (2 ^ (p.bSel - 1) ≤ b.sel) ↔ right then min (b.sel + 1) (2 ^ p.bSel - 1) else b.sel - 1 := by
  rw [selectsGlobal, counterPredicts_eq]
  by_cases hg : 2 ^ (p.bSel - 1) ≤ b.sel <;> by_cases hr : right <;>
    simp [selectorUpdate, hg, hr, counterInc_eq, counterDec_eq]

/-- Settles O23, field by field. -/
theorem bpResolveResult : Obligations.BpResolveResult := by
  intro s addr actual predicted h
  refine ⟨_, exec_bpResolve s addr predicted h, ?_, ?_, ?_, ?_, ?_, ?_, ?_, ?_, ?_⟩
  · rw [bpResolve_ht]
    exact tableSet_tableInsert addrRank _ _ _
  · rw [bpResolve_ghr, historyPush]
  · rw [bpResolve_lpt]
    exact ptTrain_tableSet _ _ _ h
  · rw [bpResolve_gpt]
    exact ptTrain_tableSet _ _ _ h
  · exact bpResolve_unknown ..
  · exact bpResolve_known ..
  · have hright : (predicted ≠ .unknown ∧ predicted = actual) ↔ predicted = actual :=
      ⟨And.right, fun e => ⟨e ▸ h, e⟩⟩
    simp only [bpResolve_successful, hright]
  · rw [bpResolve_unsuccessful]
    by_cases hu : predicted = .unknown <;> by_cases ha : predicted = actual <;> simp [hu, ha]
  · rw [bpResolve_sel, selectorUpdate_eq]

/-- Settles O25: what each of the three writes. -/
theorem clearingOperationsResult : Obligations.ClearingOperationsResult :=
  fun _ => ⟨rfl, rfl, rfl⟩

/-! ### Operands that name nothing -/

theorem globalKey_nohistWord (p : Params) : globalKey p nohistWord = none := by
  by_cases hw : 31 < p.wGlobal <;> simp [globalKey, keyOperand, hw]

theorem exec_ptTrain_unknown (t : TableSel) (key : Word) : exec (.ptTrain t key .unknown) s = .next s.refuse := by
  simp only [exec, execPtTrain]
  split <;> rfl

/-- Settles O26, operand by operand. -/
theorem operandsNamingNothingRefused : Obligations.OperandsNamingNothingRefused := by
  refine fun s => ⟨fun c hc => ?_, fun addr o hfind => ?_, fun t key o hkey => ?_, exec_ptTrain_unknown,
    globalKey_nohistWord s.params, fun addr predicted => rfl⟩
  · refine ⟨?_, ?_, ?_, ?_⟩ <;> simp [exec, execScInc, execScDec, execScValue, execScPredicts, hc]
  · have hr := (historyOperand_ht s addr).trans hfind
    constructor <;> simp [exec, execSrPush, execSrPattern, hr]
  · constructor <;> simp [exec, execPtPredict, execPtTrain, hkey]

end Sys2Proof.Machine

/-! PROOFS. The functional-unit tracker (44_fu_pipeline.md): admission, the advance of the stages, the
queries, the exit, and when an admitted instruction is ready. -/

namespace Sys2Proof.Machine

/-! ### Admission -/

theorem findRef_ref {source : List (Addr × Descriptor)} {ref : Word} {i : Inst}
    (h : findRef source ref = some i) : i.ref = ref := by
  obtain ⟨e, he, rfl⟩ := Option.map_eq_some_iff.1 h
  have hfound := List.find?_some he
  exact beq_iff_eq.1 hfound

/-- The instruction that a packet's reference names has that reference. -/
theorem refOperand_ref (s : State) (ref : Word) (u : FUnit) : (refOperand s ref u).ref = ref := by
  unfold refOperand
  cases h : findRef s.source ref with
  | none => rfl
  | some i => exact findRef_ref h

theorem exec_fuTryAdmit (s : State) (ref : Word) (u : FUnit) :
    exec (.fuTryAdmit ref u) s
      = if canAdmit s.fu u then
          .next ({ s with fu := fuAdmit s.params s.fu (refOperand s ref u) u }.done .admitted)
        else .next (s.done (.rejected u)) := rfl

theorem canAdmit_divider (t : Tracker) : canAdmit t .divider = true ↔ t.div = none := Option.isNone_iff_eq_none

/-- Settles O27, unit by unit. -/
theorem fuTryAdmitResult : Obligations.FuTryAdmitResult := by
  refine fun s ref => ⟨_, _, _, refOperand_ref s ref .adder, refOperand_ref s ref .multiplier,
    refOperand_ref s ref .divider, exec_fuTryAdmit s ref .adder, exec_fuTryAdmit s ref .multiplier, ?_⟩
  rw [exec_fuTryAdmit]
  simp only [canAdmit_divider]
  rfl

/-! ### The advance -/

theorem finalStage_eq_none_iff {l : List (Option Inst)} :
    finalStage l = none ↔ l = [] ∨ l.getLast? = some none := by
  unfold finalStage
  rw [Option.join_eq_none_iff, List.getLast?_eq_none_iff]

theorem advanceStages_moves {l : List (Option Inst)} (h : finalStage l = none) :
    advanceStages l = (none :: l).take l.length := by
  simp [advanceStages, h]

theorem advanceStages_holds {l : List (Option Inst)} (h : finalStage l ≠ none) : advanceStages l = l := by
  unfold advanceStages
  rw [if_neg (by simpa using h)]

@[simp] theorem advanceStages_length (l : List (Option Inst)) : (advanceStages l).length = l.length := by
  by_cases h : finalStage l = none
  · simp [advanceStages_moves h]
  · rw [advanceStages_holds h]

theorem stagesAdvance_advanceStages (l : List (Option Inst)) : StagesAdvance l (advanceStages l) := by
  refine ⟨advanceStages_length l, fun hfree => ?_, fun hfilled => ?_⟩
  · have hne : l ≠ [] := by rintro rfl; simp at hfree
    have hpos := List.length_pos_of_ne_nil hne
    rw [advanceStages_moves (finalStage_eq_none_iff.2 (.inr hfree))]
    refine ⟨by simp [hpos], fun k hk => ?_⟩
    rw [List.getElem?_take_of_lt hk, List.getElem?_cons_succ]
  · by_cases hnil : l = []
    · subst hnil; rfl
    · exact advanceStages_holds fun h => (finalStage_eq_none_iff.1 h).elim hnil hfilled

theorem fuAdvance_divRem (t : Tracker) :
    (fuAdvance t).divRem = if t.div.isSome then t.divRem - 1 else t.divRem := by
  cases h : t.div <;> simp [fuAdvance, h]
  omega

theorem exec_fuAdvance (s : State) :
    exec .fuAdvance s = .next ({ s with fu := fuAdvance s.fu }.done .nothing) := rfl

/-- Settles O28, unit by unit. -/
theorem fuAdvanceResult : Obligations.FuAdvanceResult := fun s =>
  ⟨_, exec_fuAdvance s, stagesAdvance_advanceStages _, stagesAdvance_advanceStages _, rfl, fuAdvance_divRem _⟩

/-! ### The exit -/

theorem unitReady_divider {t : Tracker} :
    unitReady t .divider = true ↔ t.div.isSome = true ∧ t.divRem = 0 := by
  simp [unitReady]

theorem exitUnit_divider {t : Tracker} (h : unitReady t .divider = true) : exitUnit t = some .divider := by
  simp [exitUnit, h]

theorem exitUnit_multiplier {t : Tracker} (hd : unitReady t .divider = false)
    (h : unitReady t .multiplier = true) : exitUnit t = some .multiplier := by
  simp [exitUnit, hd, h]

theorem exitUnit_adder {t : Tracker} (hd : unitReady t .divider = false)
    (hm : unitReady t .multiplier = false) (h : unitReady t .adder = true) : exitUnit t = some .adder := by
  simp [exitUnit, hd, hm, h]

/-- The final stage emptied, the others as they were. -/
theorem clearFinal_eq {l : List (Option Inst)} (hne : l ≠ []) : clearFinal l = l.dropLast ++ [none] := by
  obtain ⟨l, x, rfl⟩ := List.eq_nil_or_concat l |>.resolve_left hne
  simp [clearFinal]

theorem exec_fuExit (s : State) :
    exec .fuExit s = .next ({ s with fu := fuExit s.fu }.done (.reference (fuPeek s.fu))) := rfl

/-- Settles O31, in the order of the units. -/
theorem fuExitResult : Obligations.FuExitResult := by
  refine fun s => ⟨fun i hi hrem => ?_, fun hd => ⟨fun i hi => ?_, fun hm => ⟨fun i hi => ?_, fun ha => ?_⟩⟩⟩
  · have hx := exitUnit_divider (t := s.fu) (unitReady_divider.2 ⟨by simp [hi], hrem⟩)
    simp [exec_fuExit, fuExit, fuPeek, hx, hi]
  all_goals
    replace hd : unitReady s.fu .divider = false := Bool.eq_false_iff.2 (mt unitReady_divider.1 hd)
  · have hfinal : finalStage s.fu.mul = some i := by simp [finalStage, hi]
    have hne : s.fu.mul ≠ [] := by rintro h; simp [h] at hi
    have hx := exitUnit_multiplier hd (by simp [unitReady, hfinal])
    simp [exec_fuExit, fuExit, fuPeek, hx, hfinal, clearFinal_eq hne]
  all_goals
    replace hm : unitReady s.fu .multiplier = false := by simp [unitReady, finalStage, hm]
  · have hfinal : finalStage s.fu.add = some i := by simp [finalStage, hi]
    have hne : s.fu.add ≠ [] := by rintro h; simp [h] at hi
    have hx := exitUnit_adder hd hm (by simp [unitReady, hfinal])
    simp [exec_fuExit, fuExit, fuPeek, hx, hfinal, clearFinal_eq hne]
  · have hx : exitUnit s.fu = none := by
      have ha : unitReady s.fu .adder = false := by simp [unitReady, finalStage, ha]
      simp [exitUnit, hd, hm, ha]
    simp [exec_fuExit, fuExit, fuPeek, hx]

/-! ### The queries -/

theorem trackerEmpty_iff {t : Tracker} :
    trackerEmpty t = true ↔ (∀ o ∈ t.add ++ t.mul, o = none) ∧ t.div = none := by
  simp only [trackerEmpty, Bool.and_eq_true, List.all_eq_true, Option.isNone_iff_eq_none, List.forall_mem_append]

/-- FU.EXIT returns an instruction exactly when a unit is ready (R178 d). -/
theorem fuPeek_isSome (t : Tracker) :
    (fuPeek t).isSome = (unitReady t .divider || unitReady t .multiplier || unitReady t .adder) := by
  unfold fuPeek
  cases hd : unitReady t .divider with
  | true => simp [exitUnit_divider hd, (unitReady_divider.1 hd).1]
  | false =>
    cases hm : unitReady t .multiplier with
    | true => rw [exitUnit_multiplier hd hm]; exact hm
    | false =>
      cases ha : unitReady t .adder with
      | true => rw [exitUnit_adder hd hm ha]; exact ha
      | false => simp [exitUnit, hd, hm, ha]

theorem one_le_readyCount_iff (t : Tracker) : 1 ≤ readyCount t ↔ (fuPeek t).isSome = true := by
  rw [fuPeek_isSome, readyCount]
  cases unitReady t .divider <;> cases unitReady t .multiplier <;> cases unitReady t .adder <;> decide

theorem readyCount_eq (t : Tracker) :
    readyCount t = (if t.add.getLast?.join.isSome then 1 else 0) + (if t.mul.getLast?.join.isSome then 1 else 0)
      + (if t.div.isSome ∧ t.divRem = 0 then 1 else 0) := by
  simp only [← unitReady_divider]
  have hcount : ∀ b : Bool, b.toNat = if b then 1 else 0 := by decide
  change _ = (if unitReady t .adder then 1 else 0) + (if unitReady t .multiplier then 1 else 0) + _
  simp only [readyCount, hcount]
  ac_rfl

/-- Settles O29: the two counts of the tracker; something is ready exactly when FU.EXIT returns it. -/
theorem fuQueriesResult : Obligations.FuQueriesResult := by
  refine ⟨splitPacket_encode _, splitPacket_encode _, fun s => ⟨⟨_, rfl, trackerEmpty_iff⟩,
    _, rfl, ?_, readyCount_eq s.fu, ?_⟩⟩
  · have hbound : ∀ b : Bool, b.toNat ≤ 1 := by decide
    have := hbound (unitReady s.fu .divider)
    have := hbound (unitReady s.fu .multiplier)
    have := hbound (unitReady s.fu .adder)
    unfold readyCount
    omega
  · rw [one_le_readyCount_iff, Option.isSome_iff_exists]
    constructor
    · rintro ⟨i, hi⟩
      exact ⟨_, i, exec_fuExit s, by simp [hi]⟩
    · rintro ⟨t, i, ht, hi⟩
      cases ht
      exact ⟨i, by simpa using hi⟩

theorem stageOperand_some {t : Tracker} {u : FUnit} {stage : BitVec 8} {content : Option Inst}
    (hpos : 1 ≤ stage.toNat) (h : (unitStages t u)[stage.toNat - 1]? = some content) :
    stageOperand t u stage = some content := by
  rw [stageOperand, if_neg (by omega), h]

theorem exec_fuIsStageFilled {s : State} {u : FUnit} {stage : BitVec 8} {content : Option Inst}
    (h : stageOperand s.fu u stage = some content) :
    exec (.fuIsStageFilled u stage) s = .next (s.done (.flag content.isSome)) := by
  simp [exec, execFuIsStageFilled, h]

theorem exec_fuInstrAt {s : State} {u : FUnit} {stage : BitVec 8} {content : Option Inst}
    (h : stageOperand s.fu u stage = some content) :
    exec (.fuInstrAt u stage) s = .next (s.done (.reference content)) := by
  simp [exec, execFuInstrAt, h]

/-- A unit admits when its input stage is free (R166). -/
theorem canAdmit_eq (t : Tracker) (u : FUnit) : canAdmit t u = (unitStages t u).head?.join.isNone := by
  cases u <;> rfl

/-- Settles O30, for a stage of the unit, for a number outside, and for stage 1. -/
theorem fuStageQueriesResult : Obligations.FuStageQueriesResult := by
  refine ⟨fun u stage => ⟨splitPacket_encode _, splitPacket_encode _⟩, fun s u =>
    ⟨fun stage content hpos h => ?_, fun stage h => ?_, fun hne => ?_⟩⟩
  · have ho := stageOperand_some hpos h
    exact ⟨exec_fuIsStageFilled ho, exec_fuInstrAt ho⟩
  · have ho := stageOperand_none h
    exact ⟨exec_fuIsStageFilled_none ho, exec_fuInstrAt_none ho⟩
  · obtain ⟨content, stages, hl⟩ := List.exists_cons_of_ne_nil hne
    have ho : stageOperand s.fu u 1#8 = some content :=
      stageOperand_some (by decide) (by rw [hl]; rfl)
    rw [exec_fuIsStageFilled ho, canAdmit_eq, hl]
    simp

/-! ### Latencies (R177) -/

theorem runOps_cons {i : Instr} {s t : State} (rest : List Instr) (h : exec i s = .next t) :
    runOps (i :: rest) s = runOps rest t := by
  simp [runOps, h]

/-- `n` advances change the tracker `n` times. -/
theorem runOps_advances (n : Nat) (s : State) :
    ∃ t, runOps (List.replicate n .fuAdvance) s = some t ∧ t.fu = fuAdvance^[n] s.fu := by
  induction n generalizing s with
  | zero => exact ⟨s, rfl, rfl⟩
  | succ n ih =>
    obtain ⟨t, hrun, hfu⟩ := ih ({ s with fu := fuAdvance s.fu }.done .nothing)
    exact ⟨t, by rw [List.replicate_succ, runOps_cons _ (exec_fuAdvance s), hrun], hfu⟩

/-- An admission and `n` advances. -/
theorem runOps_admit_advances {s : State} {u : FUnit} (ref : Word) (n : Nat) (h : canAdmit s.fu u = true) :
    ∃ t, runOps (.fuTryAdmit ref u :: List.replicate n .fuAdvance) s = some t
      ∧ t.fu = fuAdvance^[n] (fuAdmit s.params s.fu (refOperand s ref u) u) := by
  have hadmit := exec_fuTryAdmit s ref u
  rw [if_pos h] at hadmit
  rw [runOps_cons _ hadmit]
  exact runOps_advances n _

theorem fuAdvance_iterate_add (t : Tracker) (n : Nat) : (fuAdvance^[n] t).add = advanceStages^[n] t.add := by
  induction n generalizing t with
  | zero => rfl
  | succ n ih => exact ih (fuAdvance t)

theorem fuAdvance_iterate_mul (t : Tracker) (n : Nat) : (fuAdvance^[n] t).mul = advanceStages^[n] t.mul := by
  induction n generalizing t with
  | zero => rfl
  | succ n ih => exact ih (fuAdvance t)

theorem fuAdvance_iterate_div (t : Tracker) (n : Nat) : (fuAdvance^[n] t).div = t.div := by
  induction n generalizing t with
  | zero => rfl
  | succ n ih => exact ih (fuAdvance t)

theorem fuAdvance_iterate_divRem {t : Tracker} (h : t.div.isSome = true) (n : Nat) :
    (fuAdvance^[n] t).divRem = t.divRem - n := by
  induction n generalizing t with
  | zero => rfl
  | succ n ih =>
    rw [Function.iterate_succ_apply, ih (by exact h), fuAdvance_divRem, if_pos h]
    omega

/-- A unit of `k` stages with one instruction, in the stage behind `n` others. -/
def stagesWith (k n : Nat) (i : Inst) : List (Option Inst) := (List.replicate k none).set n (some i)

@[simp] theorem stagesWith_length (k n : Nat) (i : Inst) : (stagesWith k n i).length = k := by
  simp [stagesWith]

theorem stagesWith_getElem? (k n : Nat) (i : Inst) (m : Nat) :
    (stagesWith k n i)[m]? = if m < k then some (if n = m then some i else none) else none := by
  rw [stagesWith, List.getElem?_set, List.getElem?_replicate, List.length_replicate]
  split_ifs <;> simp_all

theorem finalStage_stagesWith {k n : Nat} (i : Inst) (hk : 1 ≤ k) :
    finalStage (stagesWith k n i) = if n = k - 1 then some i else none := by
  rw [finalStage, List.getLast?_eq_getElem?, stagesWith_length, stagesWith_getElem?, if_pos (by omega),
    Option.join_some]

theorem advanceStages_stagesWith {k n : Nat} (i : Inst) (hn : n + 1 < k) :
    advanceStages (stagesWith k n i) = stagesWith k (n + 1) i := by
  have hfree : finalStage (stagesWith k n i) = none := by
    rw [finalStage_stagesWith i (by omega), if_neg (by omega)]
  rw [advanceStages_moves hfree, stagesWith_length]
  refine List.ext_getElem? fun m => ?_
  rw [List.getElem?_take, stagesWith_getElem?]
  cases m with
  | zero => simp
  | succ m =>
    rw [List.getElem?_cons_succ, stagesWith_getElem?]
    by_cases hm : m + 1 < k
    · simp [hm, show m < k by omega]
    · simp [hm]

theorem advanceStages_iterate {k n : Nat} (i : Inst) (hn : n < k) :
    advanceStages^[n] (stagesWith k 0 i) = stagesWith k n i := by
  induction n with
  | zero => rfl
  | succ n ih => rw [Function.iterate_succ_apply', ih (by omega), advanceStages_stagesWith i hn]

theorem inputStage_replicate_none (k : Nat) : inputStage (List.replicate k none) = none := by
  cases k <;> rfl

/-- Settles O32: the tracker after the advances, unit by unit. -/
theorem latencyOfUnits : Obligations.LatencyOfUnits := by
  intro s ref n _
  refine ⟨fun hfree hn => ?_, fun hfree hn => ?_, fun hfree hn => ?_⟩
  · obtain ⟨t, hrun, hfu⟩ := runOps_admit_advances ref n ((canAdmit_divider s.fu).2 hfree)
    have hdiv : t.fu.div = some (refOperand s ref .divider) := by rw [hfu, fuAdvance_iterate_div]; rfl
    have hrem : t.fu.divRem = s.params.divLatency - 1 - n := by
      rw [hfu, fuAdvance_iterate_divRem rfl]; rfl
    refine ⟨t, _, hrun, refOperand_ref s ref .divider, hdiv, hrem, ?_, ?_⟩
    · rw [unitReady_divider, hdiv, hrem]
      simp only [Option.isSome_some, true_and]
      omega
    · simp [canAdmit, hdiv]
  · have hadmit : canAdmit s.fu .adder = true := by simp [canAdmit, hfree, inputStage_replicate_none]
    obtain ⟨t, hrun, hfu⟩ := runOps_admit_advances ref n hadmit
    have hadd : t.fu.add = stagesWith s.params.addStages n (refOperand s ref .adder) := by
      rw [hfu, fuAdvance_iterate_add, ← advanceStages_iterate _ hn, stagesWith, ← hfree]; rfl
    refine ⟨t, _, hrun, refOperand_ref s ref .adder, hadd, ?_⟩
    rw [unitReady, hadd, finalStage_stagesWith _ (by omega)]
    split_ifs with h <;> simp [h]
  · have hadmit : canAdmit s.fu .multiplier = true := by simp [canAdmit, hfree, inputStage_replicate_none]
    obtain ⟨t, hrun, hfu⟩ := runOps_admit_advances ref n hadmit
    have hmul : t.fu.mul = stagesWith s.params.mulStages n (refOperand s ref .multiplier) := by
      rw [hfu, fuAdvance_iterate_mul, ← advanceStages_iterate _ hn, stagesWith, ← hfree]; rfl
    refine ⟨t, _, hrun, refOperand_ref s ref .multiplier, hmul, ?_⟩
    rw [unitReady, hmul, finalStage_stagesWith _ (by omega)]
    split_ifs with h <;> simp [h]

end Sys2Proof.Machine

/-! PROOFS. The engine's control and reads (46_engine_control.md): PE.START, PE.RESET, the reads, where
PE.STEP is turned away, and its first cycle. -/

namespace Sys2Proof.Machine

/-- Settles O33: the two branches of PE.START. -/
theorem peStartResult : Obligations.PeStartResult := fun _ => rfl

theorem exec_peReset (s : State) : exec .peReset s = .next ((resetBlock s).done .nothing) := rfl

/-- The predictor after PE.RESET, field by field. -/
theorem resetPredictor_eq (p : Params) (b : Predictor) :
    resetPredictor p b =
      { ht := if p.clearBpOnReset then [] else b.ht
        lpt := if p.clearBpOnReset then [] else b.lpt
        gpt := if p.clearBpOnReset then [] else b.gpt
        ghr := if p.clearBpOnReset then List.replicate p.wGlobal .unknown else b.ghr
        sel := if p.clearBpOnReset then p.selInit else b.sel
        known := 0, unknown := 0, successful := 0, unsuccessful := 0 } := by
  unfold resetPredictor
  cases p.clearBpOnReset <;> rfl

/-- Settles O34: the reset block, with the predictor's two cases field by field. -/
theorem peResetResult : Obligations.PeResetResult := by
  intro s
  rw [exec_peReset, ← resetPredictor_eq]
  rfl

/-! ### The reads -/

theorem counterMap_none {s : State} {index : Nat} (h : 12 < index) : counterMap s index = none := by
  obtain ⟨k, rfl⟩ := Nat.exists_eq_add_of_le' h
  rfl

theorem exec_peCounter_none {s : State} {index : BitVec 8} (h : counterMap s index.toNat = none) :
    exec (.peCounter index) s = .next s.refuse := by
  simp [exec, execPeCounter, h]

theorem exec_peReg {s : State} {r : BitVec 8} (h : r.toNat < s.params.nregs) :
    exec (.peReg r) s
      = .next (s.done (.registerPair (regValue s.regs r.toNat) (regSem s.regs r.toNat))) := by
  simp [exec, execPeReg, registerOperand, h]

theorem exec_peSlot (s : State) (n : SlotName) : exec (.peSlot n) s = .next (s.done (.slot (slotOf s.slots n))) :=
  rfl

/-- Settles O35, read by read. -/
theorem peReadsResult : Obligations.PeReadsResult := by
  refine ⟨splitPacket_encode _, fun _ => splitPacket_encode _, fun s => ⟨rfl, exec_peCounter rfl, fun k => ?_,
    fun index h => exec_peCounter_none (counterMap_none h), exec_peSlot s .fetch, exec_peSlot s .decode,
    exec_peSlot s .execute, exec_peSlot s .memory, exec_peSlot s .writeback, fun r x hr hx => ?_,
    fun r hr => exec_peReg_none (registerOperand_none hr)⟩⟩
  · fin_cases k <;> exact exec_peCounter rfl
  · rw [exec_peReg hr, regValue, regSem, hx]
    rfl

/-! ### PE.STEP outside a running engine, and its first cycle -/

theorem exec_peStep_notRunning {s : State} (h : s.status.steps = false) :
    exec .peStep s
      = .next (s.answer .pipelineNotRunning (.step { StepResult.init with notRunning := true })) := by
  simp [exec, execPeStep, h]

theorem exec_peStep_aborted {s : State} (h : s.status.steps = true) (ha : s.aborted = true) :
    exec .peStep s = .next s.refuse := by
  simp [exec, execPeStep, h, ha]

section Accepted

variable {s : State} {c : Cycle}

theorem exec_peStep_go (hs : s.Steps) (h : runCycle s = .go c) :
    exec .peStep s = .next (c.s.done (.step c.res)) := by
  simp [exec, execPeStep, hs.1, hs.2, h]

theorem exec_peStep_ends (hs : s.Steps) (h : runCycle s = .ends c) :
    exec .peStep s = .next (c.s.done (.step c.res)) := by
  simp [exec, execPeStep, hs.1, hs.2, h]

theorem exec_peStep_breach (hs : s.Steps) (h : runCycle s = .breach) : exec .peStep s = .next s.refuse := by
  simp [exec, execPeStep, hs.1, hs.2, h]

end Accepted

/-- Settles O36: the two guards of PE.STEP. -/
theorem peStepTurnedAway : Obligations.PeStepTurnedAway := by
  refine fun s => ⟨fun hs => ⟨_, rfl, exec_peStep_notRunning ?_⟩, fun hs ha => exec_peStep_aborted ?_ ha⟩
  · rcases hs with hs | hs <;> rw [hs] <;> rfl
  · rcases hs with hs | hs <;> rw [hs] <;> rfl

theorem finalStage_replicate_none (k : Nat) : finalStage (List.replicate k none) = none := by
  rw [finalStage_eq_none_iff]
  cases k <;> simp [List.getLast?_replicate]

theorem advanceStages_replicate_none (k : Nat) :
    advanceStages (List.replicate k none) = List.replicate k none := by
  rw [advanceStages_moves (finalStage_replicate_none k), List.length_replicate, ← List.replicate_succ,
    List.take_replicate, Nat.min_eq_left (Nat.le_succ k)]

/-- Nothing exits from a cleared tracker. -/
theorem fuPeek_cleared (p : Params) : fuPeek (Tracker.cleared p) = none := by
  rw [← Option.not_isSome_iff_eq_none, fuPeek_isSome]
  simp [unitReady, Tracker.cleared, finalStage_replicate_none]

theorem fuAdvance_cleared (p : Params) : fuAdvance (Tracker.cleared p) = Tracker.cleared p := by
  simp [fuAdvance, Tracker.cleared, advanceStages_replicate_none]

/-- Settles O37: with nothing in flight each stage before the IF stage does nothing. -/
theorem peStepFirstCycle : Obligations.PeStepFirstCycle := by
  intro s hstatus haborted hslots hfu hterm
  have hwb : wbStage (beginCycle s) = .go (beginCycle s) := by
    simp [wbStage, consumeWriteback, retireTerminating, beginCycle, hslots, Slots.cleared, hterm]
  have hmem : memStage (beginCycle s) = .go (beginCycle s) := by
    simp [memStage, beginCycle, hslots, Slots.cleared]
  have hex : exStage (beginCycle s) = .go (beginCycle s) := by
    simp [exStage, moveToMemory, beginCycle, hslots, hfu, fuPeek_cleared, fuAdvance_cleared, Slots.cleared]
  have hid : idStage ifStage (beginCycle s)
      = .go { beginCycle s with s := fetchNext (beginCycle s).s } := by
    simp [idStage, ifStage, beginCycle, hslots, hstatus, advanceFetch, Slots.cleared]
  have hrun : runCycle s = .go { beginCycle s with s := fetchNext (beginCycle s).s } := by
    simp only [runCycle, hwb, hmem, hex, hid, Flow.andThen]
  rw [exec_peStep_go ⟨by rw [hstatus]; rfl, haborted⟩ hrun]
  rfl

end Sys2Proof.Machine

/-! PROOFS. What an operation can write (10_state.md): its effect on the state, said once for all operations
but PE.STEP, with the shape that it keeps; then the shape of every constructed block and of every step. -/

namespace Sys2Proof.Machine

/-! ### The predictor's shape under the operations on its parts -/

section PredictorShape

variable {p : Params} {b : Predictor}

theorem keyOperand_fits {w : Nat} {a : Word} {k : PKey} (h : keyOperand w a = some k) :
    localKeyFits w k = true := by
  have hw : w ≤ 31 := by
    by_contra hw
    simp [keyOperand, Nat.lt_of_not_le hw] at h
  exact ((packetKeysOneToOne w a k hw).1 h).2

theorem globalKey_fits {a : Word} {k : PKey} (h : globalKey p a = some k) :
    globalKeyFits p.wGlobal k = true := by
  unfold globalKey at h
  split at h <;> cases h
  rename_i hk
  exact keyOperand_fits hk

/-- An entry set in a pattern table keeps the table's shape, when its key and its value fit. -/
theorem ptInsert_shape {bits : Nat} {t : List (PKey × Nat)} {fits : PKey → Bool} {k : PKey} {v : Nat}
    (hwf : TableWf keyRank t) (ht : ∀ e ∈ t, fits e.1 = true ∧ e.2 ≤ 2 ^ bits - 1) (hk : fits k = true)
    (hv : v ≤ 2 ^ bits - 1) :
    TableWf keyRank (tableInsert keyRank t k v)
    ∧ ∀ e ∈ tableInsert keyRank t k v, fits e.1 = true ∧ e.2 ≤ 2 ^ bits - 1 := by
  refine ⟨ptInsert_wf _ _ hwf, fun e he => ?_⟩
  rcases mem_tableInsert he with rfl | he
  · exact ⟨hk, hv⟩
  · exact ht e he

/-- The counter that an operand names is in range. -/
theorem counterOperand_le {s : State} {c : CounterSel} {r : CounterRef} {bits v : Nat}
    (h : s.pred.WellShaped s.params) (hc : counterOperand s c = some (r, bits, v)) : v ≤ 2 ^ bits - 1 := by
  obtain ⟨_, _, _, hlpt, _, hgpt, _, hsel, _⟩ := h
  cases c with
  | sel => cases hc; exact hsel
  | lpt key =>
    simp only [counterOperand] at hc
    split at hc
    · cases hc
    · obtain ⟨w, hw, hc⟩ := Option.map_eq_some_iff.1 hc
      cases hc
      exact (hlpt _ (mem_of_tableFind hw)).2
  | gpt key =>
    simp only [counterOperand] at hc
    split at hc
    · cases hc
    · obtain ⟨w, hw, hc⟩ := Option.map_eq_some_iff.1 hc
      cases hc
      exact (hgpt _ (mem_of_tableFind hw)).2

/-- A counter of the block moved within its range keeps the predictor's shape. -/
theorem setCounter_shape {s : State} {c : CounterSel} {r : CounterRef} {bits v v' : Nat}
    (h : s.pred.WellShaped s.params) (hc : counterOperand s c = some (r, bits, v)) (hv : v' ≤ 2 ^ bits - 1) :
    (setCounter s.pred r v').WellShaped s.params := by
  obtain ⟨h1, h2, h3, h4, h5, h6, h7, h8, h9⟩ := h
  cases c with
  | sel => cases hc; exact ⟨h1, h2, h3, h4, h5, h6, h7, hv, h9⟩
  | lpt key =>
    simp only [counterOperand] at hc
    split at hc
    · cases hc
    · obtain ⟨w, hw, hc⟩ := Option.map_eq_some_iff.1 hc
      cases hc
      obtain ⟨h3, h4⟩ := ptInsert_shape h3 h4 (h4 _ (mem_of_tableFind hw)).1 hv
      exact ⟨h1, h2, h3, h4, h5, h6, h7, h8, h9⟩
  | gpt key =>
    simp only [counterOperand] at hc
    split at hc
    · cases hc
    · obtain ⟨w, hw, hc⟩ := Option.map_eq_some_iff.1 hc
      cases hc
      obtain ⟨h5, h6⟩ := ptInsert_shape h5 h6 (h6 _ (mem_of_tableFind hw)).1 hv
      exact ⟨h1, h2, h3, h4, h5, h6, h7, h8, h9⟩

/-- A push into a register of the block keeps the predictor's shape. -/
theorem setHistory_shape {s : State} {r : HistorySel} {h : List Outcome} (o : Outcome)
    (hb : s.pred.WellShaped s.params) (hr : historyOperand s r = some h) :
    (setHistory s.pred r (historyPush h o)).WellShaped s.params := by
  obtain ⟨h1, h2, h3, h4, h5, h6, h7, h8, h9⟩ := hb
  cases r with
  | ghr => cases hr; exact ⟨h1, h2, h3, h4, h5, h6, (historyPush_length _ o).trans h7, h8, h9⟩
  | ht addr =>
    refine ⟨htInsert_wf _ _ h1, fun e he => ?_, h3, h4, h5, h6, h7, h8, h9⟩
    rcases mem_tableInsert he with rfl | he
    · exact (historyPush_length h o).trans (h2 _ (mem_of_tableFind hr))
    · exact h2 e he

/-- HT.RECORD keeps the predictor's shape. -/
theorem htRecord_wellShaped (addr : Addr) (o : Outcome) (hb : b.WellShaped p) :
    (htRecord p b addr o).WellShaped p := by
  obtain ⟨h1, h2, h3, h4, h5, h6, h7, h8, h9⟩ := hb
  obtain ⟨h1, h2⟩ := htRecord_shape addr o h1 h2
  exact ⟨h1, h2, h3, h4, h5, h6, h7, h8, h9⟩

/-- PT.TRAIN keeps the predictor's shape. -/
theorem setTable_shape {t : TableSel} {key : Word} {k : PKey} (actual : Outcome) (hb : b.WellShaped p)
    (hkey : tableKey p t key = some k) :
    (setTable b t (ptTrain (tableBits p t) (tableOf b t) k actual)).WellShaped p := by
  obtain ⟨h1, h2, h3, h4, h5, h6, h7, h8, h9⟩ := hb
  cases t with
  | lpt =>
    obtain ⟨h3, h4⟩ := ptTrain_shape actual h3 h4 (keyOperand_fits hkey)
    exact ⟨h1, h2, h3, h4, h5, h6, h7, h8, h9⟩
  | gpt =>
    obtain ⟨h5, h6⟩ := ptTrain_shape actual h5 h6 (globalKey_fits hkey)
    exact ⟨h1, h2, h3, h4, h5, h6, h7, h8, h9⟩

theorem bpClearStats_shape (hb : b.WellShaped p) : (bpClearStats b).WellShaped p := by
  obtain ⟨h1, h2, h3, h4, h5, h6, h7, h8, _⟩ := hb
  exact ⟨h1, h2, h3, h4, h5, h6, h7, h8, rfl⟩

theorem Params.selInit_le (hp : p.legal = true) : p.selInit ≤ 2 ^ p.bSel - 1 := by
  simp only [Params.legal, Bool.and_eq_true, decide_eq_true_eq] at hp
  obtain ⟨⟨⟨⟨⟨_, hsel⟩, _⟩, _⟩, _⟩, _⟩ := hp
  exact hsel

theorem bpClearTables_shape (hp : p.legal = true) (hb : b.WellShaped p) :
    (bpClearTables p b).WellShaped p := by
  obtain ⟨_, _, _, _, _, _, _, _, h9⟩ := hb
  refine ⟨List.Pairwise.nil, by simp [bpClearTables], List.Pairwise.nil, by simp [bpClearTables],
    List.Pairwise.nil, by simp [bpClearTables], historyNew_length _, p.selInit_le hp, h9⟩

theorem resetPredictor_shape (hp : p.legal = true) (hb : b.WellShaped p) :
    (resetPredictor p b).WellShaped p := by
  unfold resetPredictor
  split
  · exact bpClearTables_shape hp (bpClearStats_shape hb)
  · exact bpClearStats_shape hb

theorem powerOn_shape (hp : p.legal = true) : (Predictor.powerOn p).WellShaped p := by
  refine ⟨List.Pairwise.nil, by simp [Predictor.powerOn], List.Pairwise.nil, by simp [Predictor.powerOn],
    List.Pairwise.nil, by simp [Predictor.powerOn], by simp [Predictor.powerOn], p.selInit_le hp, rfl⟩

end PredictorShape

/-! ### The tracker's shape -/

section TrackerShape

variable {p : Params} {t : Tracker}

theorem fuAdmit_shape (i : Inst) (u : FUnit) (ht : t.WellShaped p) : (fuAdmit p t i u).WellShaped p := by
  obtain ⟨hadd, hmul, hrem, hidle⟩ := ht
  cases u with
  | adder => exact ⟨by simpa [fuAdmit, setInput] using hadd, hmul, hrem, hidle⟩
  | multiplier => exact ⟨hadd, by simpa [fuAdmit, setInput] using hmul, hrem, hidle⟩
  | divider => exact ⟨hadd, hmul, le_refl _, fun h => by cases h⟩

theorem fuAdvance_shape (ht : t.WellShaped p) : (fuAdvance t).WellShaped p := by
  obtain ⟨hadd, hmul, hrem, hidle⟩ := ht
  refine ⟨(advanceStages_length _).trans hadd, (advanceStages_length _).trans hmul, ?_, fun h => ?_⟩
  · rw [fuAdvance_divRem]
    split <;> omega
  · rw [fuAdvance_divRem, show t.div = none from h]
    exact hidle h

theorem fuExit_shape (ht : t.WellShaped p) : (fuExit t).WellShaped p := by
  obtain ⟨hadd, hmul, hrem, hidle⟩ := ht
  unfold fuExit
  split
  · exact ⟨hadd, hmul, Nat.zero_le _, fun _ => rfl⟩
  · exact ⟨hadd, by simpa [clearFinal] using hmul, hrem, hidle⟩
  · exact ⟨by simpa [clearFinal] using hadd, hmul, hrem, hidle⟩
  · exact ⟨hadd, hmul, hrem, hidle⟩

theorem cleared_shape (p : Params) : (Tracker.cleared p).WellShaped p :=
  ⟨List.length_replicate, List.length_replicate, Nat.zero_le _, fun _ => rfl⟩

end TrackerShape

/-! ### What an operation writes -/

/-- What an operation other than PE.STEP makes of the state: it only answers; it writes the predictor or the
tracker, from inside the block, keeping its shape; it starts a READY engine; or it resets. -/
inductive Effect (s t : State) (i : Instr) : Prop where
  | answers (r : Response) (h : t = { s with response := r })
  | predictor (b : Predictor) (r : Response) (h : t = { s with pred := b, response := r })
      (code : i.opcode.toNat < 0x60) (inside : hostMayIssue i = false)
      (shape : s.params.legal = true → s.pred.WellShaped s.params → b.WellShaped s.params)
  | tracker (f : Tracker) (r : Response) (h : t = { s with fu := f, response := r })
      (code : 0x60 ≤ i.opcode.toNat ∧ i.opcode.toNat < 0x70) (inside : hostMayIssue i = false)
      (shape : s.fu.WellShaped s.params → f.WellShaped s.params)
  | starts (hi : i = .peStart) (ready : s.status = .ready) (h : t = { s with status := .running }.done .nothing)
  | resets (hi : i = .peReset) (h : t = (resetBlock s).done .nothing)

section Effects

variable {s t : State}

theorem scNew_effect {bits : BitVec 8} {init : Word} (h : exec (.scNew bits init) s = .next t) :
    Effect s t (.scNew bits init) := by
  simp only [exec, execScNew] at h
  split at h <;> cases h <;> exact .answers _ rfl

theorem scInc_effect {c : CounterSel} (h : exec (.scInc c) s = .next t) : Effect s t (.scInc c) := by
  simp only [exec, execScInc] at h
  split at h <;> cases h
  · exact .answers _ rfl
  · rename_i hc
    exact .predictor _ _ rfl (by simp [Instr.opcode]) rfl fun _ hb => setCounter_shape hb hc (counterInc_le _ _)

theorem scDec_effect {c : CounterSel} (h : exec (.scDec c) s = .next t) : Effect s t (.scDec c) := by
  simp only [exec, execScDec] at h
  split at h <;> cases h
  · exact .answers _ rfl
  · rename_i hc
    exact .predictor _ _ rfl (by simp [Instr.opcode]) rfl fun _ hb =>
      setCounter_shape hb hc (counterDec_le (counterOperand_le hb hc))

theorem srPush_effect {r : HistorySel} {o : Outcome} (h : exec (.srPush r o) s = .next t) :
    Effect s t (.srPush r o) := by
  simp only [exec, execSrPush] at h
  split at h <;> cases h
  · exact .answers _ rfl
  · rename_i hr
    exact .predictor _ _ rfl (by simp [Instr.opcode]) rfl fun _ hb => setHistory_shape o hb hr

theorem ptTrain_effect {k : TableSel} {key : Word} {actual : Outcome}
    (h : exec (.ptTrain k key actual) s = .next t) : Effect s t (.ptTrain k key actual) := by
  simp only [exec, execPtTrain] at h
  split at h
  · cases h; exact .answers _ rfl
  · rename_i hkey
    split at h <;> cases h
    · exact .answers _ rfl
    · exact .predictor _ _ rfl (by simp [Instr.opcode]) rfl fun _ hb => setTable_shape actual hb hkey

theorem bpResolve_effect {addr : Addr} {actual predicted : Outcome}
    (h : exec (.bpResolve addr actual predicted) s = .next t) : Effect s t (.bpResolve addr actual predicted) := by
  simp only [exec, execBpResolve] at h
  split at h <;> cases h
  · exact .answers _ rfl
  · exact .predictor _ _ rfl (by simp [Instr.opcode]) rfl fun _ hb => bpResolve_shape _ _ _ hb

theorem fuTryAdmit_effect {ref : Word} {u : FUnit} (h : exec (.fuTryAdmit ref u) s = .next t) :
    Effect s t (.fuTryAdmit ref u) := by
  rw [exec_fuTryAdmit] at h
  split at h <;> cases h
  · exact .tracker _ _ rfl (by simp [Instr.opcode]) rfl (fuAdmit_shape _ _)
  · exact .answers _ rfl

theorem peStart_effect (h : exec .peStart s = .next t) : Effect s t .peStart := by
  simp only [exec, execPeStart] at h
  split at h <;> cases h
  · rename_i hs
    exact .starts rfl hs rfl
  · exact .answers _ rfl

/-- What an operation other than PE.STEP can do, said once. -/
theorem exec_effect {i : Instr} (h : exec i s = .next t) (hi : i ≠ .peStep) : Effect s t i := by
  cases i with
  | scNew => exact scNew_effect h
  | scInc => exact scInc_effect h
  | scDec => exact scDec_effect h
  | srPush => exact srPush_effect h
  | htRecord addr o =>
    cases h; exact .predictor _ _ rfl (by simp [Instr.opcode]) rfl fun _ hb => htRecord_wellShaped addr o hb
  | ptTrain => exact ptTrain_effect h
  | bpResolve => exact bpResolve_effect h
  | bpClearStats => cases h; exact .predictor _ _ rfl (by simp [Instr.opcode]) rfl fun _ hb => bpClearStats_shape hb
  | bpClearTables => cases h; exact .predictor _ _ rfl (by simp [Instr.opcode]) rfl bpClearTables_shape
  | fuTryAdmit => exact fuTryAdmit_effect h
  | fuAdvance => cases h; exact .tracker _ _ rfl (by simp [Instr.opcode]) rfl fuAdvance_shape
  | fuExit => cases h; exact .tracker _ _ rfl (by simp [Instr.opcode]) rfl fuExit_shape
  | fuClear => cases h; exact .tracker _ _ rfl (by simp [Instr.opcode]) rfl fun _ => cleared_shape _
  | peStep => exact absurd rfl hi
  | peStart => exact peStart_effect h
  | peReset => cases h; exact .resets rfl rfl
  | htPatternFor | bpPredict | bpStats | fuIsEmpty | fuReadyCount | peStatus | peSlot =>
    cases h; exact .answers _ rfl
  | scValue => simp only [exec, execScValue] at h; split at h <;> cases h <;> exact .answers _ rfl
  | scPredicts => simp only [exec, execScPredicts] at h; split at h <;> cases h <;> exact .answers _ rfl
  | srNew => simp only [exec, execSrNew] at h; split at h <;> cases h <;> exact .answers _ rfl
  | srPattern => simp only [exec, execSrPattern] at h; split at h <;> cases h <;> exact .answers _ rfl
  | ptPredict => simp only [exec, execPtPredict] at h; split at h <;> cases h <;> exact .answers _ rfl
  | fuIsStageFilled => simp only [exec, execFuIsStageFilled] at h; split at h <;> cases h <;> exact .answers _ rfl
  | fuInstrAt => simp only [exec, execFuInstrAt] at h; split at h <;> cases h <;> exact .answers _ rfl
  | peCounter => simp only [exec, execPeCounter] at h; split at h <;> cases h <;> exact .answers _ rfl
  | peReg => simp only [exec, execPeReg] at h; split at h <;> cases h <;> exact .answers _ rfl

end Effects

/-- Settles O54: the five effects, each of which writes the part that its operation's code names. -/
theorem componentsWriteTheirOwnState : Obligations.ComponentsWriteTheirOwnState := by
  intro i s t h hstep hreset
  cases exec_effect h hstep with
  | answers r h => subst h; exact ⟨rfl, fun _ => rfl, fun _ => rfl, fun _ => rfl⟩
  | predictor b r h code _ _ =>
    subst h; exact ⟨rfl, fun _ => rfl, fun hge => by omega, fun _ => rfl⟩
  | tracker f r h code _ _ =>
    subst h; exact ⟨rfl, fun _ => rfl, fun _ => rfl, fun hne => by omega⟩
  | starts hi _ h => subst h; exact ⟨rfl, fun hne => absurd hi hne, fun _ => rfl, fun _ => rfl⟩
  | resets hi _ => exact absurd hi hreset

/-! ### A step always gives a next state -/

theorem execPeStep_next (s : State) : ∃ t, exec .peStep s = .next t := by
  simp only [exec, execPeStep]
  split
  · exact ⟨_, rfl⟩
  · split
    · exact ⟨_, rfl⟩
    · split <;> exact ⟨_, rfl⟩

/-- No operation stops the machine. -/
theorem exec_next (i : Instr) (s : State) : ∃ t, exec i s = .next t := by
  cases i with
  | peStep => exact execPeStep_next s
  | scNew => simp only [exec, execScNew]; split <;> exact ⟨_, rfl⟩
  | scInc => simp only [exec, execScInc]; split <;> exact ⟨_, rfl⟩
  | scDec => simp only [exec, execScDec]; split <;> exact ⟨_, rfl⟩
  | scValue => simp only [exec, execScValue]; split <;> exact ⟨_, rfl⟩
  | scPredicts => simp only [exec, execScPredicts]; split <;> exact ⟨_, rfl⟩
  | srNew => simp only [exec, execSrNew]; split <;> exact ⟨_, rfl⟩
  | srPush => simp only [exec, execSrPush]; split <;> exact ⟨_, rfl⟩
  | srPattern => simp only [exec, execSrPattern]; split <;> exact ⟨_, rfl⟩
  | ptPredict => simp only [exec, execPtPredict]; split <;> exact ⟨_, rfl⟩
  | ptTrain =>
    simp only [exec, execPtTrain]
    split
    · exact ⟨_, rfl⟩
    · split <;> exact ⟨_, rfl⟩
  | bpResolve => simp only [exec, execBpResolve]; split <;> exact ⟨_, rfl⟩
  | fuTryAdmit => simp only [exec, execFuTryAdmit]; split <;> exact ⟨_, rfl⟩
  | fuIsStageFilled => simp only [exec, execFuIsStageFilled]; split <;> exact ⟨_, rfl⟩
  | fuInstrAt => simp only [exec, execFuInstrAt]; split <;> exact ⟨_, rfl⟩
  | peStart => simp only [exec, execPeStart]; split <;> exact ⟨_, rfl⟩
  | peCounter => simp only [exec, execPeCounter]; split <;> exact ⟨_, rfl⟩
  | peReg => simp only [exec, execPeReg]; split <;> exact ⟨_, rfl⟩
  | _ => exact ⟨_, rfl⟩

/-- What a step does with its input (R12, R67): the input is consumed, and the packet's operation runs or is
refused, or the configuration or the source changes; with no input nothing happens. -/
inductive StepEffect (s : State) : State → Prop where
  | idle : StepEffect s s
  | configures (c : Cfg) (hi : s.inputs.head? = some (.configure c)) :
      StepEffect s { s with inputs := s.inputs.tail, cfg := c }
  | stores (addr : Addr) (d : Descriptor) (hi : s.inputs.head? = some (.store addr d)) :
      StepEffect s { s with inputs := s.inputs.tail, source := tableInsert addrRank s.source addr d }
  | refuses : StepEffect s { s with inputs := s.inputs.tail }.refuse
  | runs (origin : Origin) (w : Packet) (i : Instr) (t : State)
      (hi : s.inputs.head? = some (.packet origin w)) (issued : origin = .internal ∨ hostMayIssue i = true)
      (h : exec i { s with inputs := s.inputs.tail } = .next t) : StepEffect s t

theorem step_effect {s t : State} (hp : s.params.legal = true) (h : step s = .next t) : StepEffect s t := by
  cases hi : s.inputs with
  | nil =>
    rw [step_idle hp hi] at h
    cases h
    exact .idle
  | cons input rest =>
    have hrest : rest = s.inputs.tail := by rw [hi]; rfl
    have hhead : s.inputs.head? = some input := by rw [hi]; rfl
    subst hrest
    cases input with
    | configure c => rw [step_configure hp hi] at h; cases h; exact .configures c hhead
    | store addr d => rw [step_store hp hi] at h; cases h; exact .stores addr d hhead
    | packet origin w =>
      rw [step_packet hp hi] at h
      cases ha : admitPacket origin w with
      | none => rw [ha] at h; cases h; exact .refuses
      | some i =>
        rw [ha] at h
        exact .runs origin w i t hhead (admitPacket_eq_some_iff.1 ha).2 h

/-- Settles O53: each kind of input gives a next state, a packet by `exec_next`. -/
theorem stepNeverStops : Obligations.StepNeverStops := by
  refine fun s => ⟨fun hp => ?_, fun hp => by simp [step, hp]⟩
  cases hi : s.inputs with
  | nil => exact ⟨_, step_idle hp hi⟩
  | cons input rest =>
    cases input with
    | configure c => exact ⟨_, step_configure hp hi⟩
    | store addr d => exact ⟨_, step_store hp hi⟩
    | packet origin w =>
      rw [step_packet hp hi]
      cases admitPacket origin w with
      | none => exact ⟨_, rfl⟩
      | some i => exact exec_next i _

end Sys2Proof.Machine

/-! PROOFS. The shape of the state (10_state.md, section 7): every constructed block has it, and every step
keeps it, whatever the hooks answer. -/

namespace Sys2Proof.Machine

/-! ### Construction -/

theorem powerOn_wellShaped {p : Params} (hp : p.legal = true) : (State.powerOn p).WellShaped := by
  have hregs : RegsWellShaped p (clearedRegs p) :=
    ⟨List.length_replicate, by cases h : p.nregs <;> simp [clearedRegs, h]⟩
  exact ⟨hp, powerOn_shape hp, cleared_shape p, hregs, Nat.zero_le _, List.Pairwise.nil⟩

theorem trackerEmpty_cleared (p : Params) : trackerEmpty (Tracker.cleared p) = true := by
  rw [trackerEmpty_iff]
  refine ⟨fun o ho => ?_, rfl⟩
  rcases List.mem_append.1 ho with ho | ho <;> exact (List.mem_replicate.1 ho).2

/-- An empty tracker holds no instruction, FP-arithmetic or other. -/
theorem allFp_of_empty {t : Tracker} (h : trackerEmpty t = true) : t.AllFp := by
  obtain ⟨hstages, hdiv⟩ := trackerEmpty_iff.1 h
  intro o ho
  rcases List.mem_cons.1 ho with rfl | ho
  · rw [hdiv]; rfl
  · rw [hstages o ho]; rfl

theorem powerOn_pipelineInv (p : Params) : (State.powerOn p).PipelineInv := by
  refine ⟨rfl, fun h => (by cases h), fun _ => ?_, fun h => (by cases h), fun h => (by cases h),
    fun h => (by cases h), allFp_of_empty (trackerEmpty_cleared p), fun h => (by cases h)⟩
  exact ⟨rfl, trackerEmpty_cleared p, rfl, rfl, rfl, rfl, rfl, rfl⟩

theorem inFlight_powerOn (p : Params) : (State.powerOn p).inFlight = 0 := by
  simp [State.inFlight, State.places, State.powerOn, Slots.cleared, Slot.inst, Tracker.cleared]

/-- Settles O57: reset is the construction with the reference parameters, which are legal. -/
theorem resetMeetsInvariants : Obligations.ResetMeetsInvariants := by
  refine ⟨powerOn_wellShaped (by decide), powerOn_pipelineInv _, fun p s h => ?_⟩
  unfold State.construct at h
  split at h <;> cases h
  rename_i hp
  refine ⟨rfl, powerOn_wellShaped hp, powerOn_pipelineInv p, rfl, rfl, inFlight_powerOn p,
    List.length_replicate, fun k hk => ?_, rfl⟩
  simp [State.powerOn, clearedRegs, hk]

/-! ### The register file under the changes of a hook -/

theorem setRegValue_shape {p : Params} {regs : List Reg} (r : Nat) (v : Word) (h : RegsWellShaped p regs) :
    RegsWellShaped p (setRegValue regs r v) := by
  unfold setRegValue
  split
  · exact h
  · rename_i hr
    refine ⟨by simpa using h.1, ?_⟩
    simpa [List.getElem?_modify, hr] using h.2

theorem setRegSem_shape {p : Params} {regs : List Reg} (r n : Nat) (h : RegsWellShaped p regs) :
    RegsWellShaped p (setRegSem regs r n) := by
  refine ⟨by simpa [setRegSem] using h.1, ?_⟩
  obtain ⟨_, hzero⟩ := h
  cases regs with
  | nil => simp [setRegSem]
  | cons x rest => cases r <;> simpa [setRegSem] using hzero

theorem regEffects_shape {p : Params} {regs : List Reg} (effects : List RegEffect) (h : RegsWellShaped p regs) :
    RegsWellShaped p (effects.foldl applyRegEffect regs) := by
  induction effects generalizing regs with
  | nil => exact h
  | cons e rest ih =>
    refine ih ?_
    cases e with
    | setValue r v => exact setRegValue_shape r v h
    | setSem r n => exact setRegSem_shape r n h

/-! ### The shape inside a cycle -/

/-- The shape of the state of a cycle that may still count `k` stalls (R250). -/
structure Shaped (k : Nat) (s : State) : Prop where
  legal : s.params.legal = true
  pred : s.pred.WellShaped s.params
  fu : s.fu.WellShaped s.params
  regs : RegsWellShaped s.params s.regs
  cnt : s.cnt.raw + s.cnt.waw + s.cnt.divider + s.cnt.funit + s.cnt.ex + k ≤ s.cnt.cycles
  source : TableWf addrRank s.source

theorem shaped_zero_iff {s : State} : Shaped 0 s ↔ s.WellShaped :=
  ⟨fun ⟨h1, h2, h3, h4, h5, h6⟩ => ⟨h1, h2, h3, h4, h5, h6⟩,
    fun ⟨h1, h2, h3, h4, h5, h6⟩ => ⟨h1, h2, h3, h4, h5, h6⟩⟩

section Shaped

variable {s : State} {c d : Cycle}

theorem Shaped.done (h : Shaped 1 s) : Shaped 0 s := { h with cnt := (Nat.le_succ _).trans h.cnt }

theorem Shaped.hook {k : Nat} (h : Shaped k s) (out : HookOut) : Shaped k (applyHook s out) :=
  { h with pred := resolves_shape _ h.pred, regs := regEffects_shape _ h.regs }

theorem Shaped.begin (h : s.WellShaped) : Shaped 1 (beginCycle s).s :=
  have h := shaped_zero_iff.2 h
  { h with cnt := Nat.succ_le_succ h.cnt }

theorem consumeWriteback_shaped {w : State} (hs : Shaped 1 s) (h : consumeWriteback s = some w) :
    Shaped 1 w := by
  rcases consumeWriteback_cases h with ⟨_, rfl⟩ | ⟨i, _, _, rfl⟩ | ⟨i, t, _, _, ht, rfl⟩
  · exact { hs with }
  · exact { hs with }
  · obtain ⟨_, rfl⟩ := runOkHook_cases ht
    exact { hs.hook _ with }

theorem wbStage_shaped (hc : Shaped 1 c.s) (h : wbStage c = .go d ∨ wbStage c = .ends d) : Shaped 1 d.s := by
  rcases wbStage_cases (c := c) rfl with e | ⟨w, hw, ⟨e, _⟩ | ⟨i, t, _, _, _, ht, e⟩⟩ <;> rw [e] at h <;>
    rcases h with h | h <;> cases h
  · exact consumeWriteback_shaped hc hw
  · obtain ⟨_, rfl⟩ := runOkHook_cases ht
    exact { (consumeWriteback_shaped hc hw).hook _ with }

theorem memStage_shaped (hc : Shaped 1 c.s) (h : memStage c = .go d) : Shaped 1 d.s := by
  rcases memStage_cases h with e | ⟨t, e, ⟨_, rfl⟩ | ⟨_, rfl⟩ | ⟨i, u, _, hu, rfl⟩⟩ <;> cases e
  · exact hc
  · exact { hc with }
  · obtain ⟨_, rfl⟩ := runOkHook_cases hu
    exact { hc.hook _ with }

theorem raiseSync_shaped {k : Option Nat} (hc : Shaped 1 c.s)
    (h : raiseSync c k = .go d ∨ raiseSync c k = .ends d) : Shaped 1 d.s := by
  rcases h with h | h
  · exact (raiseSync_go h).1 ▸ hc
  · exact (raiseSync_ends h).1 ▸ { hc with }

theorem moveToMemory_shaped (hc : Shaped 1 c.s) (h : moveToMemory c = .go d ∨ moveToMemory c = .ends d) :
    Shaped 1 d.s := by
  rcases h with h | h <;> cases h
  exact { hc with fu := fuAdvance_shape hc.fu }

theorem exitToMemory_shaped {f : Inst} (hc : Shaped 1 c.s)
    (h : exitToMemory f c = .go d ∨ exitToMemory f c = .ends d) : Shaped 1 d.s := by
  rcases h with h | h <;> cases h
  refine { hc with fu := fuAdvance_shape (fuExit_shape hc.fu), cnt := ?_ }
  dsimp only
  split <;> exact hc.cnt

/-- The execute hook and its exception, then a move to `slot[MEM]` (R195). -/
theorem execute_shaped {i : Inst} {k : Option Nat} {t : State} {move : Cycle → Flow} (hc : Shaped 1 c.s)
    (ht : runExecuteHook i c.s = some (k, t))
    (hmove : ∀ {b}, Shaped 1 b.s → move b = .go d ∨ move b = .ends d → Shaped 1 d.s)
    (h : (raiseSync { c with s := t } k).andThen move = .go d
      ∨ (raiseSync { c with s := t } k).andThen move = .ends d) : Shaped 1 d.s := by
  obtain ⟨rfl, _⟩ := runExecuteHook_cases ht
  have hhook := hc.hook (callHook .execute i c.s)
  rw [Flow.andThen_go, Flow.andThen_ends] at h
  rcases h with ⟨e, he, hm⟩ | he | ⟨e, he, hm⟩
  · exact hmove (raiseSync_shaped (c := { c with s := _ }) hhook (.inl he)) (.inl hm)
  · exact raiseSync_shaped (c := { c with s := _ }) hhook (.inr he)
  · exact hmove (raiseSync_shaped (c := { c with s := _ }) hhook (.inl he)) (.inr hm)

theorem exStage_shaped (hc : Shaped 1 c.s) (h : exStage c = .go d ∨ exStage c = .ends d) : Shaped 1 d.s := by
  rcases exStage_cases (c := c) rfl with e | ⟨_, _, e⟩ | ⟨i, k, t, _, _, ht, e⟩ | ⟨i, k, t, _, ht, e⟩ <;>
    rw [e] at h
  · rcases h with h | h <;> cases h
  · exact moveToMemory_shaped hc h
  · exact execute_shaped hc ht moveToMemory_shaped h
  · exact execute_shaped hc ht exitToMemory_shaped h

theorem ifStage_shaped (hc : Shaped 1 c.s) (h : ifStage c = .go d ∨ ifStage c = .ends d) : Shaped 1 d.s := by
  rcases ifStage_cases (c := c) rfl with e | ⟨_, e⟩ | ⟨_, _, e⟩ | ⟨i, b, i', t, _, _, ht, e⟩ <;> rw [e] at h <;>
    rcases h with h | h <;> cases h
  · exact { hc with }
  · exact { hc with }
  · obtain ⟨rfl, _⟩ := runFetchHook_cases ht
    exact { hc.hook _ with }

theorem countStall_room {n : Counters} (k : Stall)
    (h : n.raw + n.waw + n.divider + n.funit + n.ex + 1 ≤ n.cycles) : (countStall n k).WellShaped := by
  cases k <;> simp only [countStall, Counters.WellShaped] <;> omega

/-- A stall takes the room that the cycle made (R250). -/
theorem stallCycle_shaped {k : Stall} (hc : Shaped 1 c.s)
    (h : stallCycle c k = .go d ∨ stallCycle c k = .ends d) : Shaped 0 d.s := by
  rcases h with h | h <;> cases h
  exact { hc with cnt := countStall_room k hc.cnt }

theorem Placement.shaped {i : Inst} {place : State → State} (hp : Placement s i place) {t : State}
    (ht : Shaped 1 t) : Shaped 1 (place t) := by
  cases hp with
  | unit u _ _ => exact { ht with fu := fuAdmit_shape i u ht.fu }
  | execute _ _ => exact { ht with }

theorem redirectCycle_shaped {target : Addr} (hc : Shaped 1 c.s)
    (h : redirectCycle c target = .go d ∨ redirectCycle c target = .ends d) : Shaped 1 d.s := by
  obtain ⟨u, e, ⟨_, rfl⟩ | ⟨_, rfl⟩⟩ := redirectCycle_cases (c := c) (target := target) rfl <;> rw [e] at h <;>
    rcases h with h | h <;> cases h <;> exact { hc with }

theorem idStage_shaped (hc : Shaped 1 c.s)
    (h : idStage ifStage c = .go d ∨ idStage ifStage c = .ends d) : Shaped 0 d.s := by
  rcases idStage_cases (next := ifStage) (c := c) rfl with
    e | ⟨_, e⟩ | ⟨_, _, e⟩ | ⟨_, _, e⟩ | ⟨i, _, ⟨k, e, _⟩ | ⟨place, hp, a, t, ht, hrest⟩⟩
  · rw [e] at h
    rcases h with h | h <;> cases h
  · exact (ifStage_shaped hc (e ▸ h)).done
  · exact stallCycle_shaped hc (e ▸ h)
  · exact (ifStage_shaped (c := { c with s := placeBubble c.s }) { hc with } (e ▸ h)).done
  · exact stallCycle_shaped hc (e ▸ h)
  · obtain ⟨rfl, _⟩ := runDecodeHook_cases ht
    have hhook := hc.hook (callHook .decode i c.s)
    rcases hrest with ⟨k, _, e⟩ | ⟨_, e⟩ | ⟨target, _, e⟩
    · exact stallCycle_shaped (c := { c with s := _ }) hhook (e ▸ h)
    · exact (ifStage_shaped (c := { c with s := _ }) (hp.shaped hhook) (e ▸ h)).done
    · exact (redirectCycle_shaped (c := { c with s := _ }) (hp.shaped hhook) (e ▸ h)).done

end Shaped

theorem runCycle_wellShaped {s : State} {d : Cycle} (hs : s.WellShaped)
    (h : runCycle s = .go d ∨ runCycle s = .ends d) : d.s.WellShaped :=
  have hbegin := Shaped.begin hs
  shaped_zero_iff.1 <|
    runCycle_stages (fun b => Shaped 1 b.s) (fun b => Shaped 1 b.s) (fun b => Shaped 1 b.s)
      (fun b => Shaped 0 b.s)
      (fun _ hd => wbStage_shaped hbegin (.inl hd))
      (fun _ hd => (wbStage_shaped hbegin (.inr hd)).done)
      (fun _ _ => memStage_shaped)
      (fun _ _ hb hd => exStage_shaped hb (.inl hd))
      (fun _ _ hb hd => (exStage_shaped hb (.inr hd)).done)
      (fun _ _ => idStage_shaped) h

/-! ### The statement -/

theorem execPeStep_wellShaped {s t : State} (hs : s.WellShaped) (h : exec .peStep s = .next t) :
    t.WellShaped := by
  rcases execPeStep_cases h with ⟨_, rfl⟩ | ⟨rfl, _⟩ | ⟨_, _, c, hc, rfl⟩
  · exact hs
  · exact hs
  · exact runCycle_wellShaped hs hc

theorem resetBlock_wellShaped {s : State} (hs : s.WellShaped) : (resetBlock s).WellShaped := by
  obtain ⟨hp, hpred, _, _, _, hsource⟩ := hs
  obtain ⟨_, _, _, hregs, _, _⟩ := powerOn_wellShaped hp
  exact ⟨hp, resetPredictor_shape hp hpred, cleared_shape _, hregs, Nat.zero_le _, hsource⟩

theorem exec_wellShaped {i : Instr} {s t : State} (hs : s.WellShaped) (h : exec i s = .next t) :
    t.WellShaped := by
  by_cases hi : i = .peStep
  · exact execPeStep_wellShaped hs (hi ▸ h)
  · obtain ⟨hp, hpred, hfu, hregs, hcnt, hsource⟩ := id hs
    cases exec_effect h hi with
    | answers r h => exact h ▸ hs
    | predictor b r h _ _ shape => exact h ▸ ⟨hp, shape hp hpred, hfu, hregs, hcnt, hsource⟩
    | tracker f r h _ _ shape => exact h ▸ ⟨hp, hpred, shape hfu, hregs, hcnt, hsource⟩
    | starts _ _ h => exact h ▸ hs
    | resets _ h => exact h ▸ resetBlock_wellShaped hs

/-- Settles O55: an input of the host keeps the shape, and so does every operation. -/
theorem stepKeepsShape : Obligations.StepKeepsShape := by
  intro s t hs h
  obtain ⟨hp, hpred, hfu, hregs, hcnt, hsource⟩ := id hs
  cases step_effect hp h with
  | idle => exact hs
  | configures c _ => exact hs
  | stores addr d _ => exact ⟨hp, hpred, hfu, hregs, hcnt, htInsert_wf _ _ hsource⟩
  | refuses => exact hs
  | runs origin w i _ _ _ h => exact exec_wellShaped (s := { s with inputs := s.inputs.tail }) hs h

end Sys2Proof.Machine

/-! PROOFS. Where a cycle ends and what it leaves in the slots, the tracker, the status and the record, whatever
the hooks answer (45_pipeline_engine.md, 46_engine_control.md). -/

namespace Sys2Proof.Machine

/-! ### The end of a cycle that reached its ID stage -/

/-- The state `u` has all of `b` but what the hook and the placement of the ID stage can change. -/
structure SameFront (b u : State) : Prop where
  fetch : u.slots.fetch = b.slots.fetch
  pc : u.pc = b.pc
  trace : u.trace = b.trace
  params : u.params = b.params
  source : u.source = b.source
  cnt : u.cnt = b.cnt

/-- How the ID stage ends the cycle, or hands it to the IF stage (R199 to R204). -/
inductive DecodeEnd (b d : Cycle) : Prop where
  | stalls (u : State) (k : Stall) (front : SameFront b.s u) (slots : u.slots = b.s.slots)
      (h : stallCycle ⟨u, b.res⟩ k = .ends d)
  | proceeds (u : State) (front : SameFront b.s u) (h : ifStage ⟨u, b.res⟩ = .go d)
  | redirects (u : State) (target : Addr) (front : SameFront b.s u)
      (h : redirectCycle ⟨u, b.res⟩ target = .ends d)

theorem SameFront.refl (b : State) : SameFront b b := ⟨rfl, rfl, rfl, rfl, rfl, rfl⟩

theorem Placement.front {s : State} {i : Inst} {place : State → State} (hp : Placement s i place)
    (out : HookOut) : SameFront s (place (applyHook s out)) := by
  cases hp <;> exact ⟨rfl, rfl, rfl, rfl, rfl, rfl⟩

/-- The IF stage never ends the step. -/
theorem ifStage_go {c d : Cycle} (h : ifStage c = .go d ∨ ifStage c = .ends d) : ifStage c = .go d := by
  refine h.resolve_right fun h => ?_
  rcases ifStage_cases h with e | ⟨_, e⟩ | ⟨_, _, e⟩ | ⟨_, _, _, _, _, _, _, e⟩ <;> cases e

theorem stallCycle_ends {c d : Cycle} {k : Stall} (h : stallCycle c k = .go d ∨ stallCycle c k = .ends d) :
    stallCycle c k = .ends d :=
  h.resolve_left fun h => by cases h

theorem redirectCycle_ends {c d : Cycle} {target : Addr}
    (h : redirectCycle c target = .go d ∨ redirectCycle c target = .ends d) :
    redirectCycle c target = .ends d :=
  h.resolve_left fun h => by cases h

theorem idStage_end {b d : Cycle} (h : idStage ifStage b = .go d ∨ idStage ifStage b = .ends d) :
    DecodeEnd b d := by
  rcases idStage_cases (next := ifStage) (c := b) rfl with
    e | ⟨_, e⟩ | ⟨_, _, e⟩ | ⟨_, _, e⟩ | ⟨i, _, ⟨k, e, _⟩ | ⟨place, hp, a, t, ht, hrest⟩⟩
  · rw [e] at h
    rcases h with h | h <;> cases h
  · exact .proceeds b.s (.refl _) (ifStage_go (e ▸ h))
  · exact .stalls b.s _ (.refl _) rfl (stallCycle_ends (e ▸ h))
  · exact .proceeds (placeBubble b.s) ⟨rfl, rfl, rfl, rfl, rfl, rfl⟩ (ifStage_go (e ▸ h))
  · exact .stalls b.s _ (.refl _) rfl (stallCycle_ends (e ▸ h))
  · obtain ⟨rfl, _⟩ := runDecodeHook_cases ht
    rcases hrest with ⟨k, _, e⟩ | ⟨_, e⟩ | ⟨target, _, e⟩
    · exact .stalls (applyHook b.s (callHook .decode i b.s)) k ⟨rfl, rfl, rfl, rfl, rfl, rfl⟩ rfl (stallCycle_ends (e ▸ h))
    · exact .proceeds _ (hp.front _) (ifStage_go (e ▸ h))
    · exact .redirects _ target (hp.front _) (redirectCycle_ends (e ▸ h))

/-- The IF stage leaves the stall, the redirect and the error of the record. -/
theorem ifStage_res {c d : Cycle} (h : ifStage c = .go d) :
    d.res.idStall = c.res.idStall ∧ d.res.redirect = c.res.redirect
    ∧ d.res.notRunning = c.res.notRunning := by
  rcases ifStage_cases h with e | ⟨_, e⟩ | ⟨_, _, e⟩ | ⟨_, _, _, _, _, _, _, e⟩ <;> cases e <;>
    exact ⟨rfl, rfl, rfl⟩

/-- A cycle does not both stall and redirect (R202, R203). -/
theorem DecodeEnd.redirect_of_stall {b d : Cycle} (h : DecodeEnd b d) (hb : b.res.idStall = none)
    (hr : b.res.redirect = none) (hs : d.res.idStall ≠ none) : d.res.redirect = none := by
  cases h with
  | stalls u k _ _ h => cases h; exact hr
  | proceeds u _ h =>
    obtain ⟨_, h, _⟩ := ifStage_res h
    exact h.trans hr
  | redirects u target _ h =>
    obtain ⟨v, e, _⟩ := redirectCycle_cases h
    cases e
    exact absurd hb hs

/-! ### What the outcomes of the ID stage share -/

/-- The cycle `d` got past the ID stage, which left `u`. -/
structure PassedDecode (b d : Cycle) (u : State) : Prop where
  placed : Placed b.s u
  execute : d.s.slots.execute = u.slots.execute
  memory : d.s.slots.memory = u.slots.memory
  writeback : d.s.slots.writeback = u.slots.writeback
  decode : u.status ≠ .running → d.s.slots.decode = .bubble
  fu : d.s.fu = u.fu
  status : d.s.status = u.status
  stall : d.res.idStall = b.res.idStall ∨ d.res.redirect.isSome = true
  kept : KeptRecord b.res d.res
  term : d.s.term = b.s.term
  aborted : d.s.aborted = b.s.aborted
  retired : d.s.cnt.instructions = b.s.cnt.instructions
  inputs : d.s.inputs = b.s.inputs

/-- The cycle `d` stalled in ID (R202). -/
structure StalledDecode (b d : Cycle) : Prop where
  slots : d.s.slots = { b.s.slots with
    execute := if b.s.slots.execute = .empty then .bubble else b.s.slots.execute }
  fu : d.s.fu = b.s.fu
  status : d.s.status = b.s.status
  stall : d.res.idStall ≠ none
  kept : KeptRecord b.res d.res
  term : d.s.term = b.s.term
  aborted : d.s.aborted = b.s.aborted
  retired : d.s.cnt.instructions = b.s.cnt.instructions
  inputs : d.s.inputs = b.s.inputs

/-- A cycle that reached its ID stage stalled there or got past it. -/
theorem DecodeOutcome.stalled_or_passed {b d : Cycle} (h : DecodeOutcome b d) :
    StalledDecode b d ∨ ∃ u, PassedDecode b d u := by
  cases h with
  | stalled slots rest fu status stall _ kept =>
    exact .inl ⟨slots, fu, status, stall, kept, rest.term, rest.aborted, rest.retired, rest.inputs⟩
  | held u placed _ slots rest fu status stall _ kept =>
    exact .inr ⟨u, placed, by rw [slots], by rw [slots], by rw [slots], fun _ => by rw [slots], fu, status,
      .inl stall, kept, rest.term, rest.aborted, rest.retired, rest.inputs⟩
  | fetched u x y a placed running _ slots rest _ fu status stall _ kept =>
    exact .inr ⟨u, placed, by rw [slots], by rw [slots], by rw [slots], fun hn => absurd running hn, fu, status,
      .inl stall, kept, rest.term, rest.aborted, rest.retired, rest.inputs⟩
  | turned u placed _ slots rest fu status redirect kept =>
    exact .inr ⟨u, placed, by rw [slots], by rw [slots], by rw [slots], fun _ => by rw [slots], fu, status,
      .inr redirect, kept, rest.term, rest.aborted, rest.retired, rest.inputs⟩
  | refetched u y a placed _ slots rest _ fu status redirect kept =>
    exact .inr ⟨u, placed, by rw [slots], by rw [slots], by rw [slots], fun _ => by rw [slots], fu, status,
      .inr redirect, kept, rest.term, rest.aborted, rest.retired, rest.inputs⟩

theorem DecodeOutcome.kept {b d : Cycle} (h : DecodeOutcome b d) : KeptRecord b.res d.res :=
  h.stalled_or_passed.elim (·.kept) fun ⟨_, h⟩ => h.kept

theorem DecodeOutcome.aborted {b d : Cycle} (h : DecodeOutcome b d) : d.s.aborted = b.s.aborted :=
  h.stalled_or_passed.elim (·.aborted) fun ⟨_, h⟩ => h.aborted

/-- A placement leaves `slot[MEM]` and `slot[WB]`. -/
theorem Placed.back {b u : State} (h : Placed b u) :
    u.slots.memory = b.slots.memory ∧ u.slots.writeback = b.slots.writeback := by
  cases h with
  | nothing _ hs _ _ => rw [hs]; exact ⟨rfl, rfl⟩
  | bubble _ _ hs _ _ => rw [hs]; exact ⟨rfl, rfl⟩
  | unit _ _ _ _ _ hs _ _ => rw [hs]; exact ⟨rfl, rfl⟩
  | execute _ _ _ _ hs _ _ => rw [hs]; exact ⟨rfl, rfl⟩

theorem DecodeOutcome.back {b d : Cycle} (h : DecodeOutcome b d) :
    d.s.slots.memory = b.s.slots.memory ∧ d.s.slots.writeback = b.s.slots.writeback := by
  rcases h.stalled_or_passed with h | ⟨u, h⟩
  · rw [h.slots]; exact ⟨rfl, rfl⟩
  · exact ⟨h.memory.trans h.placed.back.1, h.writeback.trans h.placed.back.2⟩

/-- A placement keeps the status, or stops a RUNNING engine on the terminating instruction that it puts into
`slot[EX]` (R201, D20). -/
theorem Placed.status {b u : State} (h : Placed b u) :
    u.status = b.status
    ∨ b.status = .running ∧ u.status = .stopping
      ∧ ∃ i, b.slots.decode = .instr i ∧ i.isTerminating = true ∧ u.slots.execute = .instr i := by
  cases h with
  | nothing _ _ _ h => exact .inl h
  | bubble _ _ _ _ h => exact .inl h
  | unit _ _ _ _ _ _ _ h => exact .inl h
  | execute i hd _ _ hs _ h =>
    by_cases hstop : i.isTerminating && decide (b.status = .running)
    · rw [if_pos hstop] at h
      simp only [Bool.and_eq_true, decide_eq_true_eq] at hstop
      exact .inr ⟨hstop.2, h, i, hd, hstop.1, by rw [hs]⟩
    · rw [if_neg hstop] at h
      exact .inl h

theorem DecodeOutcome.status {b d : Cycle} (h : DecodeOutcome b d) :
    d.s.status = b.s.status
    ∨ b.s.status = .running ∧ d.s.status = .stopping
      ∧ ∃ i, b.s.slots.decode = .instr i ∧ i.isTerminating = true ∧ d.s.slots.execute = .instr i := by
  rcases h.stalled_or_passed with h | ⟨u, h⟩
  · exact .inl h.status
  · rw [h.status, h.execute]
    exact h.placed.status

theorem not_halted_of_steps {x : Status} (h : x.steps = true) : x ≠ .halted := by
  rintro rfl; cases h

theorem DecodeOutcome.not_halted {b d : Cycle} (h : DecodeOutcome b d) (hb : b.s.status ≠ .halted) :
    d.s.status ≠ .halted := by
  rcases h.status with e | ⟨_, e, _⟩ <;> rw [e]
  · exact hb
  · exact fun h => by cases h

theorem retiring_eq (s : State) : s.retiring = s.slots.writeback.retires.toNat := by
  unfold State.retiring Slot.retires
  cases s.slots.writeback.real && !s.slots.writeback.terminating <;> rfl

/-- A terminating instruction waits after the WB stage: it was in TERM, or in `slot[WB]`. -/
theorem nextTerm_isSome {s : State} (h : s.nextTerm.isSome = true) :
    s.term.isSome = true ∨ s.slots.writeback.terminating = true := by
  unfold State.nextTerm at h
  split at h
  · rename_i hw
    exact .inr hw
  · exact .inl h

/-! ### The halt (R192, R241) -/

theorem runCycle_halt_iff {s : State} {d : Cycle} (hs : s.status.steps = true) (o : CycleOutcome s d) :
    d.res.halt = true ↔ d.s.status = .halted := by
  have hrun := not_halted_of_steps hs
  cases o with
  | halts h => simp [h.res, h.status]
  | cutShort h =>
    obtain ⟨hhalt, _⟩ := h.res
    simp [hhalt, h.status, hrun]
  | full b h o =>
    obtain ⟨hhalt, _⟩ := h.res
    simp [o.kept.halt, hhalt, o.not_halted (h.status ▸ hrun)]

theorem CycleOutcome.halts_of_halt {s : State} {d : Cycle} (o : CycleOutcome s d) (hd : d.res.halt = true) :
    Halts s d := by
  cases o with
  | halts h => exact h
  | cutShort h => exact absurd hd (by simp [h.res])
  | full b h o => exact absurd hd (by simp [o.kept.halt, h.res])

theorem exec_status_of_halted {i : Instr} {s t : State} (hs : s.status = .halted) (hi : i ≠ .peReset)
    (h : exec i s = .next t) : t.status = .halted := by
  by_cases hstep : i = .peStep
  · rw [hstep, exec_peStep_notRunning (by rw [hs]; rfl)] at h
    cases h
    exact hs
  · cases exec_effect h hstep with
    | answers r h => exact h ▸ hs
    | predictor b r h _ _ _ => exact h ▸ hs
    | tracker f r h _ _ _ => exact h ▸ hs
    | starts _ ready _ => rw [hs] at ready; cases ready
    | resets hreset _ => exact absurd hreset hi

/-- Settles O41: the halting outcome is the one with the status HALTED, and in HALTED only PE.RESET writes the
status. -/
theorem haltSignalledOnce : Obligations.HaltSignalledOnce := by
  refine ⟨fun s t r hexec hstep => ?_, fun s t i hs hi h => ?_⟩
  · obtain ⟨hsteps, _, d, hrun, rfl, rfl⟩ := stepped_cycle hexec hstep
    have o := runCycle_outcome hrun
    refine ⟨runCycle_halt_iff hsteps o, fun hhalt => ?_⟩
    have h := o.halts_of_halt hhalt
    obtain ⟨hterm, hempty, hmem⟩ := h.retires
    exact ⟨h.term, hempty, hmem, nextTerm_isSome hterm, by rw [← retiring_eq]; exact h.retired⟩
  · have ht := exec_status_of_halted hs hi h
    exact ⟨ht, _, exec_peStep_notRunning (by rw [ht]; rfl)⟩

/-! ### The status (R227) -/

/-- While RUNNING with no terminating instruction past `slot[ID]` nothing retires the engine. -/
theorem not_retires_of_runningPlain {s : State} (hp : s.RunningPlain) (hs : s.status = .running) :
    s.nextTerm = none := by
  obtain ⟨hterm, _, _, hwb⟩ := hp hs
  simp [State.nextTerm, hwb, hterm]

theorem eq_running_or_stopping {x : Status} (h : x.steps = true) : x = .running ∨ x = .stopping := by
  cases x <;> simp_all [Status.steps]

/-- Settles O42: the outcomes of a cycle, and the effects of the other operations. -/
theorem statusTransitions : Obligations.StatusTransitions := by
  intro i s t hplain h
  by_cases hi : i = .peStep
  · subst hi
    rcases execPeStep_cases h with ⟨_, rfl⟩ | ⟨rfl, _⟩ | ⟨hsteps, _, d, hrun, rfl⟩
    · exact .inl rfl
    · exact .inl rfl
    · cases runCycle_outcome hrun with
      | halts o =>
        have hstop : s.status = .stopping := by
          refine (eq_running_or_stopping hsteps).resolve_left fun hr => ?_
          obtain ⟨hterm, _⟩ := o.retires
          simp [not_retires_of_runningPlain hplain hr] at hterm
        exact .inr (.inr (.inr (.inl ⟨rfl, hstop, o.status, _, rfl, by rw [o.res]⟩)))
      | cutShort o => exact .inl o.status
      | full b hb o =>
        rcases o.status with e | ⟨hr, hstop, j, hdec, hterm, hex⟩
        · exact .inl (e.trans hb.status)
        · exact .inr (.inr (.inl ⟨rfl, hb.status ▸ hr, hstop, j, hb.decode ▸ hdec, hterm, hex⟩))
  · cases exec_effect h hi with
    | answers r h => exact .inl (h ▸ rfl)
    | predictor b r h _ _ _ => exact .inl (h ▸ rfl)
    | tracker f r h _ _ _ => exact .inl (h ▸ rfl)
    | starts hstart ready h => exact .inr (.inl ⟨hstart, ready, h ▸ rfl⟩)
    | resets hreset h => exact .inr (.inr (.inr (.inr ⟨hreset, h ▸ rfl⟩)))

/-! ### `slot[WB]`, `slot[MEM]` and the tracker (R194, R195, R198) -/

/-- A placement leaves the tracker, or admits the instruction of `slot[ID]` into its free unit (R201). -/
theorem Placed.fu {b u : State} (h : Placed b u) :
    u.fu = b.fu ∨ ∃ i x, b.slots.decode = .instr i ∧ i.fpUnit = some x ∧ canAdmit b.fu x = true
      ∧ u.fu = fuAdmit b.params b.fu i x := by
  cases h with
  | nothing _ _ h _ => exact .inl h
  | bubble _ _ _ h _ => exact .inl h
  | unit i x hd hi hc _ h _ => exact .inr ⟨i, x, hd, hi, hc, h⟩
  | execute _ _ _ _ _ h _ => exact .inl h

/-- A cycle past its EX stage admits into the tracker only on an attempt without a stall. -/
theorem DecodeOutcome.fu {b d : Cycle} (h : DecodeOutcome b d) (he : DecodeEnd b d)
    (hstall : b.res.idStall = none) (hredirect : b.res.redirect = none) :
    d.s.fu = b.s.fu ∨ ∃ i x, b.s.slots.decode = .instr i ∧ i.fpUnit = some x ∧ canAdmit b.s.fu x = true
      ∧ d.res.idStall = none ∧ d.s.fu = fuAdmit b.s.params b.s.fu i x := by
  rcases h.stalled_or_passed with h | ⟨u, h⟩
  · exact .inl h.fu
  · rw [h.fu]
    refine h.placed.fu.imp_right fun ⟨i, x, hd, hi, hc, hfu⟩ => ⟨i, x, hd, hi, hc, ?_, hfu⟩
    refine h.stall.elim (·.trans hstall) fun hr => ?_
    by_contra hne
    rw [he.redirect_of_stall hstall hredirect hne] at hr
    cases hr

/-! ### What the stages before ID keep and count -/

/-- The cycle so far has neither moved `pc` nor written the source, has counted itself and the memory stall that
it reports, and has raised no error, no stall in ID and no breakpoint (R191, R196). -/
structure Early (s : State) (b : Cycle) : Prop extends Unturned s b where
  source : b.s.source = s.source
  notRunning : b.res.notRunning = false
  idStall : b.res.idStall = none
  breakpoint : b.res.breakpoint = false
  cycles : b.s.cnt.cycles = s.cnt.cycles + 1
  raw : b.s.cnt.raw = s.cnt.raw
  waw : b.s.cnt.waw = s.cnt.waw
  divider : b.s.cnt.divider = s.cnt.divider
  funit : b.s.cnt.funit = s.cnt.funit
  ex : b.s.cnt.ex = s.cnt.ex
  memory : b.s.cnt.memory = s.cnt.memory + if b.res.memStall then 1 else 0

section Early

variable {s : State} {b d : Cycle}

theorem beginCycle_early (s : State) : Early s (beginCycle s) :=
  { pc := rfl, redirect := rfl, source := rfl, notRunning := rfl, idStall := rfl, breakpoint := rfl,
    cycles := rfl, raw := rfl, waw := rfl, divider := rfl, funit := rfl, ex := rfl, memory := rfl }

theorem consumeWriteback_early {w : State} (hb : Early s b) (h : consumeWriteback b.s = some w) :
    Early s { b with s := w } := by
  rcases consumeWriteback_cases h with ⟨_, rfl⟩ | ⟨i, _, _, rfl⟩ | ⟨i, t, _, _, ht, rfl⟩
  · exact { hb with }
  · exact { hb with }
  · obtain ⟨_, rfl⟩ := runOkHook_cases ht
    exact { hb with }

theorem wbStage_early (hb : Early s b) (h : wbStage b = .go d ∨ wbStage b = .ends d) : Early s d := by
  rcases wbStage_cases (c := b) rfl with e | ⟨w, hw, ⟨e, _⟩ | ⟨i, t, _, _, _, ht, e⟩⟩ <;> rw [e] at h <;>
    rcases h with h | h <;> cases h
  · exact consumeWriteback_early hb hw
  · obtain ⟨_, rfl⟩ := runOkHook_cases ht
    exact { consumeWriteback_early hb hw with }

theorem memStage_early (hb : Early s b) (h : memStage b = .go d) : Early s d := by
  rcases memStage_cases h with e | ⟨t, e, ⟨_, rfl⟩ | ⟨_, rfl⟩ | ⟨i, u, _, hu, rfl⟩⟩ <;> cases e
  · exact hb
  · exact { hb with }
  · obtain ⟨_, rfl⟩ := runOkHook_cases hu
    exact { hb with }

theorem raiseSync_early {k : Option Nat} (hb : Early s b)
    (h : raiseSync b k = .go d ∨ raiseSync b k = .ends d) : Early s d := by
  rcases raiseSync_cases (c := b) (k := k) rfl with ⟨m, y, e, _⟩ | ⟨kind, _, _, _, e⟩ <;> rw [e] at h <;>
    rcases h with h | h <;> cases h <;> exact { hb with }

theorem moveToMemory_early (hb : Early s b) (h : moveToMemory b = .go d ∨ moveToMemory b = .ends d) :
    Early s d := by
  rcases h with h | h <;> cases h
  exact { hb with }

theorem exitToMemory_early {f : Inst} (hb : Early s b) (hm : b.res.memStall = false)
    (h : exitToMemory f b = .go d ∨ exitToMemory f b = .ends d) : Early s d := by
  have hmemory := hb.memory
  rw [hm] at hmemory
  rcases h with h | h <;> cases h
  cases hx : b.s.slots.execute.real
  · exact { hb with memory := by simpa [hm] using hmemory }
  · exact { hb with memory := by simpa using hmemory }

/-- The execute hook and its exception, then a move to `slot[MEM]` (R195). -/
theorem execute_early {t : State} {i : Inst} {k : Option Nat} {move : Cycle → Flow} (hb : Early s b)
    (hm : b.res.memStall = false) (ht : runExecuteHook i b.s = some (k, t))
    (hmove : ∀ {c}, Early s c → c.res.memStall = false → move c = .go d ∨ move c = .ends d → Early s d)
    (h : (raiseSync { b with s := t } k).andThen move = .go d
      ∨ (raiseSync { b with s := t } k).andThen move = .ends d) : Early s d := by
  obtain ⟨rfl, _⟩ := runExecuteHook_cases ht
  have hhook : Early s { b with s := applyHook b.s (callHook .execute i b.s) } := { hb with }
  have hgo : ∀ {e}, raiseSync { b with s := applyHook b.s (callHook .execute i b.s) } k = .go e →
      move e = .go d ∨ move e = .ends d → Early s d := fun he hd => by
    obtain ⟨_, _, _, _, _, hstall, _⟩ := raiseSync_go he
    exact hmove (raiseSync_early hhook (.inl he)) (hstall.trans hm) hd
  rw [Flow.andThen_go, Flow.andThen_ends] at h
  rcases h with ⟨e, he, hd⟩ | he | ⟨e, he, hd⟩
  · exact hgo he (.inl hd)
  · exact raiseSync_early hhook (.inr he)
  · exact hgo he (.inr hd)

theorem exStage_early (hb : Early s b) (hm : b.res.memStall = false)
    (h : exStage b = .go d ∨ exStage b = .ends d) : Early s d := by
  rcases exStage_cases (c := b) rfl with e | ⟨_, _, e⟩ | ⟨i, k, t, _, _, ht, e⟩ | ⟨i, k, t, _, ht, e⟩ <;>
    rw [e] at h
  · rcases h with h | h <;> cases h
  · exact moveToMemory_early hb h
  · exact execute_early hb hm ht (fun hc _ => moveToMemory_early hc) h
  · exact execute_early hb hm ht exitToMemory_early h

end Early

/-- The outcomes of a cycle, with what its first stages count and how its ID stage ends it. -/
inductive CycleEnd (s : State) (d : Cycle) : Prop where
  | halts (h : Halts s d) (early : Early s d)
  | cutShort (h : CutShort s d) (early : Early s d)
  | full (b : Cycle) (h : Reached s b) (early : Early s b) (o : DecodeOutcome b d) (e : DecodeEnd b d)

theorem runCycle_end {s : State} {d : Cycle} (h : runCycle s = .go d ∨ runCycle s = .ends d) :
    CycleEnd s d := by
  refine runCycle_stages (fun b => Consumed s b ∧ Early s b) (fun b => Moved s b ∧ Early s b)
    (fun b => Reached s b ∧ Early s b) (CycleEnd s) ?_ ?_ ?_ ?_ ?_ ?_ h
  · intro b hb
    have early := wbStage_early (beginCycle_early s) (.inl hb)
    rcases wbStage_outcome hb with h | ⟨_, h, m⟩ | ⟨_, h, m⟩ <;> cases h
    exact ⟨m, early⟩
  · intro b hb
    have early := wbStage_early (beginCycle_early s) (.inr hb)
    rcases wbStage_outcome hb with h | ⟨_, h, m⟩ | ⟨_, h, m⟩ <;> cases h
    exact .halts m early
  · exact fun b e ⟨hc, early⟩ h => ⟨memStage_outcome hc h, memStage_early early h⟩
  · rintro b e ⟨hm, early⟩ h
    have early := exStage_early early (by rw [hm.res]; rfl) (.inl h)
    rcases exStage_outcome hm h with h | ⟨_, h, m⟩ | ⟨_, h, m⟩ <;> cases h
    exact ⟨m, early⟩
  · rintro b e ⟨hm, early⟩ h
    have early := exStage_early early (by rw [hm.res]; rfl) (.inr h)
    rcases exStage_outcome hm h with h | ⟨_, h, m⟩ | ⟨_, h, m⟩ <;> cases h
    exact .cutShort m early
  · exact fun b _ ⟨hr, early⟩ h => .full b hr early (idStage_outcome h) (idStage_end h)

/-- Settles O47: one of the three outcomes of a cycle for each branch of the statement. -/
theorem peStepAdvancesTracker : Obligations.PeStepAdvancesTracker := by
  intro s t r hexec hstep
  obtain ⟨_, _, d, hrun, rfl, rfl⟩ := stepped_cycle hexec hstep
  cases runCycle_end hrun with
  | halts h _ =>
    rw [if_pos (by rw [h.res])]
    exact ⟨h.fu, h.slots⟩
  | cutShort h _ =>
    obtain ⟨hhalt, _, _, himm, _⟩ := h.res
    rw [if_neg (by simp [hhalt]), if_pos himm]
    exact ⟨h.fu, h.slots⟩
  | full b hb _ o e =>
    obtain ⟨hhalt, hredirect, hstall, himm, _⟩ := hb.res
    rw [if_neg (by simp [o.kept.halt, hhalt]), if_neg (by simp [o.kept.immediate, himm])]
    refine ⟨o.back.2.trans hb.writeback, o.back.1.trans hb.memory, ?_⟩
    have hfu := o.fu e hstall hredirect
    rwa [hb.fu, hb.decode, hb.params] at hfu

end Sys2Proof.Machine

/-! PROOFS. The pipeline's invariant (10_state.md, section 7): where the terminating instruction is while the
engine stops, and that every step on inputs of the host keeps it. -/

namespace Sys2Proof.Machine

/-! ### What the tracker holds -/

/-- Every place of the tracker. -/
def Tracker.contents (t : Tracker) : List (Option Inst) := t.div :: (t.add ++ t.mul)

theorem mem_contents {t : Tracker} {o : Option Inst} :
    o ∈ t.contents ↔ o = t.div ∨ o ∈ t.add ∨ o ∈ t.mul := by
  simp [Tracker.contents]

theorem mem_advanceStages {l : List (Option Inst)} {o : Option Inst} (h : o ∈ advanceStages l) :
    o = none ∨ o ∈ l := by
  unfold advanceStages at h
  split at h
  · exact List.mem_cons.1 (List.mem_of_mem_take h)
  · exact .inr h

theorem mem_clearFinal {l : List (Option Inst)} {o : Option Inst} (h : o ∈ clearFinal l) :
    o = none ∨ o ∈ l :=
  (List.mem_or_eq_of_mem_set h).symm

/-- An advance brings nothing into the tracker. -/
theorem mem_contents_fuAdvance {t : Tracker} {o : Option Inst} (h : o ∈ (fuAdvance t).contents) :
    o = none ∨ o ∈ t.contents := by
  rw [mem_contents] at h ⊢
  rcases h with h | h | h
  · exact .inr (.inl h)
  · exact (mem_advanceStages h).imp_right fun h => .inr (.inl h)
  · exact (mem_advanceStages h).imp_right fun h => .inr (.inr h)

/-- An exit brings nothing into the tracker. -/
theorem mem_contents_fuExit {t : Tracker} {o : Option Inst} (h : o ∈ (fuExit t).contents) :
    o = none ∨ o ∈ t.contents := by
  rw [mem_contents] at h ⊢
  unfold fuExit at h
  split at h
  · exact h.imp_right .inr
  · rcases h with h | h | h
    · exact .inr (.inl h)
    · exact .inr (.inr (.inl h))
    · exact (mem_clearFinal h).imp_right fun h => .inr (.inr h)
  · rcases h with h | h | h
    · exact .inr (.inl h)
    · exact (mem_clearFinal h).imp_right fun h => .inr (.inl h)
    · exact .inr (.inr (.inr h))
  · exact .inr h

/-- An admission brings one instruction into the tracker. -/
theorem mem_contents_fuAdmit {p : Params} {t : Tracker} {i : Inst} {u : FUnit} {o : Option Inst}
    (h : o ∈ (fuAdmit p t i u).contents) : o = some i ∨ o ∈ t.contents := by
  rw [mem_contents] at h ⊢
  cases u with
  | adder =>
    rcases h with h | h | h
    · exact .inr (.inl h)
    · exact (List.mem_or_eq_of_mem_set h).symm.imp_right fun h => .inr (.inl h)
    · exact .inr (.inr (.inr h))
  | multiplier =>
    rcases h with h | h | h
    · exact .inr (.inl h)
    · exact .inr (.inr (.inl h))
    · exact (List.mem_or_eq_of_mem_set h).symm.imp_right fun h => .inr (.inr h)
  | divider => exact h.imp_right .inr

theorem mem_contents_trackerAtDecode {s : State} {o : Option Inst} (h : o ∈ s.trackerAtDecode.contents) :
    o = none ∨ o ∈ s.fu.contents :=
  (mem_contents_fuAdvance h).elim .inl mem_contents_fuExit

theorem allFp_iff {t : Tracker} : t.AllFp ↔ ∀ o ∈ t.contents, o.all (fun i => i.fpUnit.isSome) = true := Iff.rfl

theorem trackerAtDecode_allFp {s : State} (h : s.fu.AllFp) : s.trackerAtDecode.AllFp :=
  allFp_iff.2 fun o ho => (mem_contents_trackerAtDecode ho).elim (fun e => e ▸ rfl) (allFp_iff.1 h o)

theorem fuAdmit_allFp {p : Params} {t : Tracker} {i : Inst} {x : FUnit} (u : FUnit) (h : t.AllFp)
    (hi : i.fpUnit = some x) : (fuAdmit p t i u).AllFp :=
  allFp_iff.2 fun o ho => (mem_contents_fuAdmit ho).elim (fun e => by simp [e, hi]) (allFp_iff.1 h o)

/-- An FP-arithmetic instruction is not terminating (R185). -/
theorem not_terminating_of_fpUnit {i : Inst} (h : i.fpUnit.isSome = true) : i.isTerminating = false := by
  unfold Inst.fpUnit at h
  unfold Inst.isTerminating
  split at h <;> simp_all

/-- The instruction that FU.EXIT would return is not terminating. -/
theorem fuPeek_not_terminating {t : Tracker} {f : Inst} (h : t.AllFp) (hf : fuPeek t = some f) :
    f.isTerminating = false :=
  not_terminating_of_fpUnit (allFp_iff.1 h _ (fuPeek_mem hf))

/-! ### The place of the terminating instruction -/

/-- The terminating instruction is in exactly one of `slot[EX]`, `slot[MEM]`, `slot[WB]` and TERM, and nothing
real is behind it in `slot[EX]`. -/
def ChainAt (ex mem wb : Slot) (term : Option Inst) : Prop :=
  (ex.terminating = true ∧ mem.terminating = false ∧ wb.terminating = false ∧ term = none)
  ∨ (ex.real = false ∧ mem.terminating = true ∧ wb.terminating = false ∧ term = none)
  ∨ (ex.real = false ∧ mem.terminating = false ∧ wb.terminating = true ∧ term = none)
  ∨ (ex.real = false ∧ mem.terminating = false ∧ wb.terminating = false ∧ term.isSome = true)

theorem stoppingChain_iff {s : State} : s.StoppingChain ↔ (s.status = .stopping →
    s.slots.decode.real = false ∧ ChainAt s.slots.execute s.slots.memory s.slots.writeback s.term) := Iff.rfl

theorem Slot.not_terminating_of_not_real {x : Slot} (h : x.real = false) : x.terminating = false := by
  cases x <;> simp_all [Slot.terminating, Slot.real]

theorem Slot.inst_of_terminating {x : Slot} (h : x.terminating = true) : x.inst.isSome = true := by
  cases x <;> simp_all [Slot.terminating, Slot.inst]

theorem nextTerm_of_terminating {s : State} (h : s.slots.writeback.terminating = true) :
    s.nextTerm.isSome = true := by
  rw [State.nextTerm, if_pos h]
  exact Slot.inst_of_terminating h

theorem nextTerm_of_not_terminating {s : State} (h : s.slots.writeback.terminating = false) :
    s.nextTerm = s.term := by
  simp [State.nextTerm, h]

/-- TERM after the WB stage, with nothing behind it, or the terminating instruction further back: what the
WB stage makes of the chain. -/
theorem ChainAt.afterWriteback {s : State}
    (h : ChainAt s.slots.execute s.slots.memory s.slots.writeback s.term) :
    (s.slots.execute.terminating = true ∧ s.slots.memory.terminating = false ∧ s.nextTerm = none)
    ∨ (s.slots.execute.real = false ∧ s.slots.memory.terminating = true ∧ s.nextTerm = none)
    ∨ (s.slots.execute.real = false ∧ s.slots.memory.terminating = false ∧ s.nextTerm.isSome = true) := by
  rcases h with ⟨h1, h2, h3, h4⟩ | ⟨h1, h2, h3, h4⟩ | ⟨h1, h2, h3, h4⟩ | ⟨h1, h2, h3, h4⟩
  · exact .inl ⟨h1, h2, (nextTerm_of_not_terminating h3).trans h4⟩
  · exact .inr (.inl ⟨h1, h2, (nextTerm_of_not_terminating h3).trans h4⟩)
  · exact .inr (.inr ⟨h1, h2, nextTerm_of_terminating h3⟩)
  · exact .inr (.inr ⟨h1, h2, by rwa [nextTerm_of_not_terminating h3]⟩)

/-- The chain behind a MEM stage that the EX stage does not follow. -/
theorem ChainAt.cutShort {s : State} (h : ChainAt s.slots.execute s.slots.memory s.slots.writeback s.term) :
    ChainAt s.slots.execute .empty s.slots.memory s.nextTerm := by
  rcases h.afterWriteback with ⟨h1, h2, h3⟩ | ⟨h1, h2, h3⟩ | ⟨h1, h2, h3⟩
  · exact .inl ⟨h1, rfl, h2, h3⟩
  · exact .inr (.inr (.inl ⟨h1, rfl, h2, h3⟩))
  · exact .inr (.inr (.inr ⟨h1, rfl, h2, h3⟩))

theorem heldExecute_real {s : State} (h : s.slots.execute.real = false) : s.heldExecute.real = false := by
  unfold State.heldExecute
  split
  · exact h
  · rfl

/-- The content of `slot[MEM]` after the EX stage (R195). -/
def State.nextMemory (s : State) : Slot :=
  match fuPeek s.fu with
  | some f => .instr f
  | none => s.slots.execute

theorem nextMemory_not_terminating {s : State} (hfp : s.fu.AllFp) (h : s.slots.execute.terminating = false) :
    s.nextMemory.terminating = false := by
  unfold State.nextMemory
  cases hf : fuPeek s.fu with
  | some f => exact fuPeek_not_terminating hfp hf
  | none => exact h

/-- The chain as the ID stage finds it. -/
theorem ChainAt.atDecode {s : State} (hfp : s.fu.AllFp)
    (h : ChainAt s.slots.execute s.slots.memory s.slots.writeback s.term) :
    ChainAt s.heldExecute s.nextMemory s.slots.memory s.nextTerm := by
  rcases h.afterWriteback with ⟨h1, h2, h3⟩ | ⟨h1, h2, h3⟩ | ⟨h1, h2, h3⟩
  · unfold State.heldExecute State.nextMemory
    cases hf : fuPeek s.fu with
    | some f => exact .inl ⟨h1, fuPeek_not_terminating hfp hf, h2, h3⟩
    | none => exact .inr (.inl ⟨rfl, h1, h2, h3⟩)
  · exact .inr (.inr (.inl ⟨heldExecute_real h1,
      nextMemory_not_terminating hfp (Slot.not_terminating_of_not_real h1), h2, h3⟩))
  · exact .inr (.inr (.inr ⟨heldExecute_real h1,
      nextMemory_not_terminating hfp (Slot.not_terminating_of_not_real h1), h2, h3⟩))

/-- Only what is terminating and what is real in `slot[EX]` counts. -/
theorem ChainAt.execute {ex ex' mem wb : Slot} {term : Option Inst} (h : ChainAt ex mem wb term)
    (hterm : ex'.terminating = ex.terminating) (hreal : ex'.real = ex.real) : ChainAt ex' mem wb term := by
  unfold ChainAt at h ⊢
  rwa [hterm, hreal]

/-! ### The cycles of a stopping engine -/

/-- With nothing real in `slot[ID]` the ID stage leaves what counts of `slot[EX]`, the tracker, the status and
nothing real in `slot[ID]`. -/
theorem DecodeOutcome.of_idle {b d : Cycle} (o : DecodeOutcome b d) (hd : b.s.slots.decode.real = false)
    (hn : b.s.status ≠ .running) :
    d.s.slots.execute.terminating = b.s.slots.execute.terminating
    ∧ d.s.slots.execute.real = b.s.slots.execute.real ∧ d.s.slots.decode.real = false
    ∧ d.s.fu = b.s.fu ∧ d.s.status = b.s.status := by
  rcases o.stalled_or_passed with h | ⟨u, h⟩
  · rw [h.slots]
    refine ⟨?_, ?_, hd, h.fu, h.status⟩ <;> dsimp only <;> split <;> simp_all [Slot.terminating, Slot.real]
  · have hplaced : u.slots.execute.terminating = b.s.slots.execute.terminating
        ∧ u.slots.execute.real = b.s.slots.execute.real ∧ u.fu = b.s.fu ∧ u.status = b.s.status := by
      cases h.placed with
      | nothing _ hs hfu hst => exact ⟨by rw [hs], by rw [hs], hfu, hst⟩
      | bubble _ hfree hs hfu hst =>
        rw [hs]
        exact ⟨(Slot.not_terminating_of_not_real hfree).symm, hfree.symm, hfu, hst⟩
      | unit i _ hc _ _ _ _ _ => rw [hc] at hd; cases hd
      | execute i hc _ _ _ _ _ => rw [hc] at hd; cases hd
    obtain ⟨hterm, hreal, hfu, hst⟩ := hplaced
    rw [h.execute, h.decode (hst.symm ▸ hn)]
    exact ⟨hterm, hreal, rfl, h.fu.trans hfu, h.status.trans hst⟩

/-! ### The invariant, without the inputs -/

/-- The pipeline's invariant without the origin of the inputs. -/
structure PipelineCore (s : State) : Prop where
  term : s.term.isSome = true → s.status = .stopping
  ready : s.ReadyIdle
  halted : s.HaltedDrained
  running : s.RunningPlain
  stopping : s.StoppingChain
  allFp : s.fu.AllFp
  aborted : s.aborted = true → s.status.steps = true

theorem pipelineInv_iff {s : State} :
    s.PipelineInv ↔ s.inputs.all Input.fromHost = true ∧ PipelineCore s :=
  ⟨fun ⟨h0, h1, h2, h3, h4, h5, h6, h7⟩ => ⟨h0, h1, h2, h3, h4, h5, h6, h7⟩,
    fun ⟨h0, h1, h2, h3, h4, h5, h6, h7⟩ => ⟨h0, h1, h2, h3, h4, h5, h6, h7⟩⟩

section Cycle

variable {s : State} {d : Cycle}

/-- What waits in TERM after a WB stage waits in a stopping engine. -/
theorem PipelineCore.stopping_of_nextTerm (h : PipelineCore s) (hs : s.status.steps = true)
    (ht : s.nextTerm.isSome = true) : s.status = .stopping := by
  refine (eq_running_or_stopping hs).resolve_left fun hr => ?_
  simp [not_retires_of_runningPlain h.running hr] at ht

theorem Halts.pipelineCore (o : Halts s d) (h : PipelineCore s) (hs : s.Steps) : PipelineCore d.s := by
  obtain ⟨hterm, hempty, hmem⟩ := o.retires
  have hstop := h.stopping_of_nextTerm hs.1 hterm
  obtain ⟨hdecode, hchain⟩ := stoppingChain_iff.1 h.stopping hstop
  have hexecute : s.slots.execute.real = false := by
    rcases hchain.afterWriteback with ⟨_, _, hnone⟩ | ⟨_, _, hnone⟩ | ⟨hx, _, _⟩
    · simp [hnone] at hterm
    · simp [hnone] at hterm
    · exact hx
  have hdrained : d.s.HaltedDrained := fun _ => by
    rw [o.slots, o.fu, o.term]
    exact ⟨rfl, hempty, hdecode, hexecute, hmem, rfl⟩
  exact {
    term := by simp [o.term]
    ready := by simp [State.ReadyIdle, o.status]
    halted := hdrained
    running := by simp [State.RunningPlain, o.status]
    stopping := by simp [State.StoppingChain, o.status]
    allFp := o.fu ▸ h.allFp
    aborted := by simp [o.aborted, hs.2] }

theorem CutShort.pipelineCore (o : CutShort s d) (h : PipelineCore s) (hs : s.Steps) : PipelineCore d.s := by
  have hsteps : d.s.status.steps = true := o.status ▸ hs.1
  refine ⟨fun ht => ?_, fun hr => ?_, fun hh => ?_, fun hr => ?_, stoppingChain_iff.2 fun hst => ?_,
    o.fu ▸ h.allFp, fun _ => hsteps⟩
  · rw [o.status]
    exact h.stopping_of_nextTerm hs.1 (o.term ▸ ht)
  · rw [hr] at hsteps; cases hsteps
  · rw [hh] at hsteps; cases hsteps
  · have hr := o.status ▸ hr
    obtain ⟨_, hex, hmem, _⟩ := h.running hr
    rw [o.slots, o.term]
    exact ⟨not_retires_of_runningPlain h.running hr, hex, rfl, hmem⟩
  · obtain ⟨hdecode, hchain⟩ := stoppingChain_iff.1 h.stopping (o.status ▸ hst)
    rw [o.slots, o.term]
    exact ⟨hdecode, hchain.cutShort⟩

/-- The slots behind `slot[EX]`, TERM and the latch of a cycle past its EX stage. -/
theorem Reached.behind {b : Cycle} (h : Reached s b) (o : DecodeOutcome b d) :
    d.s.slots.memory = s.nextMemory ∧ d.s.slots.writeback = s.slots.memory ∧ d.s.term = s.nextTerm
    ∧ d.s.aborted = s.aborted := by
  have hterm : d.s.term = b.s.term := o.stalled_or_passed.elim (·.term) fun ⟨_, h⟩ => h.term
  exact ⟨o.back.1.trans h.memory, o.back.2.trans h.writeback, hterm.trans h.term, o.aborted.trans h.aborted⟩

theorem heldExecute_not_terminating (h : s.slots.execute.terminating = false) :
    s.heldExecute.terminating = false := by
  unfold State.heldExecute
  split
  · exact h
  · rfl

/-- While the engine stays RUNNING nothing terminating enters `slot[EX]`. -/
theorem DecodeOutcome.execute_not_terminating {b : Cycle} (o : DecodeOutcome b d)
    (hb : b.s.slots.execute.terminating = false) (hrb : b.s.status = .running) (hr : d.s.status = .running) :
    d.s.slots.execute.terminating = false := by
  rcases o.stalled_or_passed with h | ⟨u, h⟩
  · rw [h.slots]
    dsimp only
    split
    · rfl
    · exact hb
  · rw [h.execute]
    cases h.placed with
    | nothing _ hs _ _ => rw [hs]; exact hb
    | bubble _ _ hs _ _ => rw [hs]; rfl
    | unit _ _ _ _ _ hs _ _ => rw [hs]; exact hb
    | execute i _ _ _ hs _ hst =>
      rw [hs]
      rw [← h.status, hr, hrb] at hst
      by_contra hi
      simp [Slot.terminating] at hi
      simp [hi] at hst

theorem DecodeOutcome.allFp {b : Cycle} (o : DecodeOutcome b d) (hb : b.s.fu.AllFp) : d.s.fu.AllFp := by
  rcases o.stalled_or_passed with h | ⟨u, h⟩
  · exact h.fu ▸ hb
  · rw [h.fu]
    rcases h.placed.fu with e | ⟨i, x, _, hi, _, e⟩
    · exact e ▸ hb
    · exact e ▸ fuAdmit_allFp x hb hi

/-- A full cycle of a RUNNING engine: it stays RUNNING, or the terminating instruction of `slot[ID]` enters
`slot[EX]` and the engine stops. -/
theorem Reached.pipelineCore_running {b : Cycle} (hb : Reached s b) (o : DecodeOutcome b d)
    (h : PipelineCore s) (hs : s.Steps) (hr : s.status = .running) : PipelineCore d.s := by
  obtain ⟨hmem, hwb, hterm, habort⟩ := hb.behind o
  obtain ⟨_, hex, hmemory, _⟩ := h.running hr
  have hnext := not_retires_of_runningPlain h.running hr
  have hnextMemory := nextMemory_not_terminating h.allFp hex
  have hrb := hb.status.trans hr
  have hstatus : d.s.status = .running ∨ d.s.status = .stopping :=
    o.status.imp (·.trans hrb) fun ⟨_, h, _⟩ => h
  refine ⟨fun ht => ?_, fun hx => ?_, fun hx => ?_, fun hx => ?_, stoppingChain_iff.2 fun hx => ?_,
    o.allFp (hb.fu ▸ trackerAtDecode_allFp h.allFp), fun ha => ?_⟩
  · simp [hterm, hnext] at ht
  · rcases hstatus with e | e <;> rw [e] at hx <;> cases hx
  · rcases hstatus with e | e <;> rw [e] at hx <;> cases hx
  · rw [hterm, hmem, hwb]
    have hheld := heldExecute_not_terminating hex
    exact ⟨hnext, o.execute_not_terminating (hb.execute ▸ hheld) hrb hx, hnextMemory, hmemory⟩
  · rcases o.status with e | ⟨_, _, i, _, hi, hplaced⟩
    · rw [hx, hrb] at e; cases e
    · rw [hterm, hmem, hwb, hplaced]
      refine ⟨?_, .inl ⟨hi, hnextMemory, hmemory, hnext⟩⟩
      rcases o.stalled_or_passed with e | ⟨u, e⟩
      · have := e.status
        rw [hx, hrb] at this; cases this
      · rw [e.decode (by rw [← e.status, hx]; exact fun h => by cases h)]
        rfl
  · rw [habort, hs.2] at ha; cases ha

/-- A full cycle of a STOPPING engine. -/
theorem Reached.pipelineCore_stopping {b : Cycle} (hb : Reached s b) (o : DecodeOutcome b d)
    (h : PipelineCore s) (hs : s.Steps) (hst : s.status = .stopping) : PipelineCore d.s := by
  obtain ⟨hmem, hwb, hterm, habort⟩ := hb.behind o
  obtain ⟨hdecode, hchain⟩ := stoppingChain_iff.1 h.stopping hst
  obtain ⟨hexTerm, hexReal, hdec, _, hstatus⟩ := o.of_idle (hb.decode ▸ hdecode)
    (by rw [hb.status, hst]; exact fun h => by cases h)
  have hstop : d.s.status = .stopping := hstatus.trans (hb.status.trans hst)
  have hdone : ChainAt d.s.slots.execute d.s.slots.memory d.s.slots.writeback d.s.term := by
    rw [hmem, hwb, hterm]
    refine (hchain.atDecode h.allFp).execute ?_ ?_
    · rw [hexTerm, hb.execute]
    · rw [hexReal, hb.execute]
  exact {
    term := fun _ => hstop
    ready := by simp [State.ReadyIdle, hstop]
    halted := by simp [State.HaltedDrained, hstop]
    running := by simp [State.RunningPlain, hstop]
    stopping := stoppingChain_iff.2 fun _ => ⟨hdec, hdone⟩
    allFp := o.allFp (hb.fu ▸ trackerAtDecode_allFp h.allFp)
    aborted := by simp [habort, hs.2] }

theorem CycleOutcome.pipelineCore (o : CycleOutcome s d) (h : PipelineCore s) (hs : s.Steps) :
    PipelineCore d.s := by
  cases o with
  | halts o => exact o.pipelineCore h hs
  | cutShort o => exact o.pipelineCore h hs
  | full b hb o =>
    rcases eq_running_or_stopping hs.1 with hr | hst
    · exact hb.pipelineCore_running o h hs hr
    · exact hb.pipelineCore_stopping o h hs hst

end Cycle

/-! ### Every operation of the host -/

theorem execPeStep_pipelineCore {s t : State} (h : PipelineCore s) (ht : exec .peStep s = .next t) :
    PipelineCore t := by
  rcases execPeStep_cases ht with ⟨_, rfl⟩ | ⟨rfl, _⟩ | ⟨hs, ha, c, hc, rfl⟩
  · exact { h with }
  · exact { h with }
  · exact { (runCycle_outcome hc).pipelineCore h ⟨hs, ha⟩ with }

/-- A READY engine is idle, so a started one has nothing past `slot[ID]`. -/
theorem started_pipelineCore {s : State} (h : PipelineCore s) (hr : s.status = .ready) :
    PipelineCore ({ s with status := .running }.done .nothing) := by
  obtain ⟨hslots, _, hterm, _⟩ := h.ready hr
  refine ⟨fun ht => ?_, fun hx => (by cases hx), fun hx => (by cases hx), fun _ => ?_,
    fun hx => (by cases hx), h.allFp, fun _ => rfl⟩
  · simp [hterm] at ht
  · simp [hslots, hterm, Slots.cleared, Slot.terminating]

theorem resetBlock_pipelineCore (s : State) : PipelineCore ((resetBlock s).done .nothing) := by
  have hstats : (resetPredictor s.params s.pred).known = 0 ∧ (resetPredictor s.params s.pred).unknown = 0
      ∧ (resetPredictor s.params s.pred).successful = 0 ∧ (resetPredictor s.params s.pred).unsuccessful = 0 := by
    rw [resetPredictor_eq]
    exact ⟨rfl, rfl, rfl, rfl⟩
  exact {
    term := fun h => by cases h
    ready := fun _ => ⟨rfl, trackerEmpty_cleared _, rfl, rfl, hstats⟩
    halted := fun h => by cases h
    running := fun h => by cases h
    stopping := fun h => by cases h
    allFp := allFp_of_empty (trackerEmpty_cleared _)
    aborted := fun h => by cases h }

theorem exec_pipelineCore {i : Instr} {s t : State} (hi : hostMayIssue i = true) (h : PipelineCore s)
    (ht : exec i s = .next t) : PipelineCore t := by
  by_cases hstep : i = .peStep
  · exact execPeStep_pipelineCore h (hstep ▸ ht)
  · cases exec_effect ht hstep with
    | answers r e => exact e ▸ { h with }
    | predictor b r _ _ inside _ => rw [hi] at inside; cases inside
    | tracker f r _ _ inside _ => rw [hi] at inside; cases inside
    | starts _ ready e => exact e ▸ started_pipelineCore h ready
    | resets _ e => exact e ▸ resetBlock_pipelineCore s

/-- No operation writes the queue of inputs. -/
theorem exec_inputs {i : Instr} {s t : State} (h : exec i s = .next t) : t.inputs = s.inputs := by
  by_cases hi : i = .peStep
  · subst hi
    rcases execPeStep_cases h with ⟨_, rfl⟩ | ⟨rfl, _⟩ | ⟨_, _, c, hc, rfl⟩
    · rfl
    · rfl
    · exact (runCycle_frame hc).inputs
  · cases exec_effect h hi with
    | answers r e => exact e ▸ rfl
    | predictor b r e _ _ _ => exact e ▸ rfl
    | tracker f r e _ _ _ => exact e ▸ rfl
    | starts _ _ e => exact e ▸ rfl
    | resets _ e => exact e ▸ rfl

theorem params_legal_of_step {s t : State} (h : step s = .next t) : s.params.legal = true := by
  by_contra hp
  rw [(stepNeverStops s).2 (Bool.eq_false_iff.2 hp)] at h
  cases h

/-- Settles O56: the invariant without the inputs is kept by every operation that the host may issue, and the
inputs that remain are the host's. -/
theorem stepKeepsPipeline : Obligations.StepKeepsPipeline := by
  intro s t hinv h
  obtain ⟨hhost, hcore⟩ := pipelineInv_iff.1 hinv
  have htail : s.inputs.tail.all Input.fromHost = true :=
    List.all_eq_true.2 fun x hx => List.all_eq_true.1 hhost x (List.mem_of_mem_tail hx)
  refine pipelineInv_iff.2 ?_
  cases step_effect (params_legal_of_step h) h with
  | idle => exact ⟨hhost, hcore⟩
  | configures c _ => exact ⟨htail, { hcore with }⟩
  | stores addr d _ => exact ⟨htail, { hcore with }⟩
  | refuses => exact ⟨htail, { hcore with }⟩
  | runs origin w i _ hi issued hrun =>
    have hfrom : (Input.packet origin w).fromHost = true :=
      List.all_eq_true.1 hhost _ (List.mem_of_mem_head? hi)
    have hissued : hostMayIssue i = true := issued.resolve_left fun e => by rw [e] at hfrom; cases hfrom
    exact ⟨exec_inputs hrun ▸ htail,
      exec_pipelineCore (s := { s with inputs := s.inputs.tail }) hissued { hcore with } hrun⟩

end Sys2Proof.Machine

/-! PROOFS. The conservation of instructions (45_pipeline_engine.md, R211): the instructions of a list of places
as a multiset, what the tracker's operations make of it, and the balance of each outcome of a cycle. -/

namespace Sys2Proof.Machine

/-! ### The instructions in a list of places -/

/-- The instructions in a list of places, each without its prediction, in no order. -/
def load (l : List (Option Inst)) : Multiset Inst := (l.reduceOption.map Inst.forget : List Inst)

/-- The instruction in one place. -/
def loadAt (o : Option Inst) : Multiset Inst := load [o]

@[simp] theorem load_nil : load [] = 0 := rfl

@[simp] theorem loadAt_none : loadAt none = 0 := rfl

theorem load_append (l l' : List (Option Inst)) : load (l ++ l') = load l + load l' := by
  simp [load, List.reduceOption_append]

theorem load_cons (o : Option Inst) (l : List (Option Inst)) : load (o :: l) = loadAt o + load l :=
  load_append [o] l

@[simp] theorem Slot.inst_empty : Slot.empty.inst = none := rfl

@[simp] theorem Slot.inst_bubble : Slot.bubble.inst = none := rfl

@[simp] theorem Slot.inst_instr (i : Inst) : (Slot.instr i).inst = some i := rfl

theorem Slot.inst_of_not_real {x : Slot} (h : x.real = false) : x.inst = none := by
  cases x with
  | empty => rfl
  | bubble => rfl
  | instr i => cases h

theorem toList_forget (o : Option Inst) : ((o.toList.map Inst.forget : List Inst) : Multiset Inst) = loadAt o := by
  cases o <;> rfl

/-- Contents that differ only in the prediction hold the same instruction. -/
theorem loadAt_of_forget {x y : Slot} (h : x.forget = y.forget) : loadAt x.inst = loadAt y.inst := by
  cases x <;> cases y <;> simp [Slot.forget] at h
  · rfl
  · rfl
  · simp [loadAt, load, Slot.inst, h]

/-- The instructions in the tracker. -/
def Tracker.load (t : Tracker) : Multiset Inst := Machine.load t.contents

theorem Tracker.load_eq (t : Tracker) : t.load = loadAt t.div + (Machine.load t.add + Machine.load t.mul) := by
  rw [Tracker.load, Tracker.contents, load_cons, load_append]

theorem load_places (s : State) :
    load s.places = loadAt s.slots.fetch.inst + (loadAt s.slots.decode.inst + (loadAt s.slots.execute.inst
      + (loadAt s.slots.memory.inst + (loadAt s.slots.writeback.inst + (loadAt s.term + s.fu.load))))) := by
  simp only [State.places, load_cons, load_append, Tracker.load_eq]

/-! ### The tracker -/

/-- A unit's stages with the final one written out. -/
theorem exists_eq_append_finalStage {l : List (Option Inst)} (hne : l ≠ []) :
    ∃ l', l = l' ++ [finalStage l] := by
  obtain ⟨l', x, rfl⟩ := (List.eq_nil_or_concat l).resolve_left hne
  exact ⟨l', by simp [finalStage]⟩

theorem load_advanceStages (l : List (Option Inst)) : load (advanceStages l) = load l := by
  by_cases hfree : finalStage l = none
  · rw [advanceStages_moves hfree]
    by_cases hne : l = []
    · rw [hne]; rfl
    · obtain ⟨l', hl⟩ := exists_eq_append_finalStage hne
      rw [hfree] at hl
      rw [hl]
      simp [load_cons, load_append]
  · rw [advanceStages_holds hfree]

theorem load_clearFinal {l : List (Option Inst)} {i : Inst} (h : finalStage l = some i) :
    load (clearFinal l) + loadAt (some i) = load l := by
  have hne : l ≠ [] := by rintro rfl; cases h
  obtain ⟨l', hl⟩ := exists_eq_append_finalStage hne
  rw [h] at hl
  rw [clearFinal_eq hne, hl]
  simp [load_append, load_cons]

theorem load_setInput {l : List (Option Inst)} (i : Inst) (hne : l ≠ []) (h : inputStage l = none) :
    load (setInput l i) = load l + loadAt (some i) := by
  obtain ⟨x, l', rfl⟩ := List.exists_cons_of_ne_nil hne
  have hx : x = none := by simpa [inputStage] using h
  simp [setInput, load_cons, hx, add_comm]

theorem load_fuAdvance (t : Tracker) : (fuAdvance t).load = t.load := by
  simp only [Tracker.load_eq, fuAdvance, load_advanceStages]

/-- FU.EXIT takes out exactly the instruction that it returns (R175). -/
theorem load_fuExit (t : Tracker) : (fuExit t).load + loadAt (fuPeek t) = t.load := by
  cases hd : unitReady t .divider with
  | true => simp [fuExit, fuPeek, exitUnit_divider hd, Tracker.load_eq, add_comm]
  | false =>
    cases hm : unitReady t .multiplier with
    | true =>
      obtain ⟨i, hi⟩ := Option.isSome_iff_exists.1 (show (finalStage t.mul).isSome = true from hm)
      simp only [fuExit, fuPeek, exitUnit_multiplier hd hm, Tracker.load_eq, hi, ← load_clearFinal hi]
      abel
    | false =>
      cases ha : unitReady t .adder with
      | true =>
        obtain ⟨i, hi⟩ := Option.isSome_iff_exists.1 (show (finalStage t.add).isSome = true from ha)
        simp only [fuExit, fuPeek, exitUnit_adder hd hm ha, Tracker.load_eq, hi, ← load_clearFinal hi]
        abel
      | false => simp [fuExit, fuPeek, exitUnit, hd, hm, ha]

theorem Params.one_le_stages {p : Params} (hp : p.legal = true) : 1 ≤ p.addStages ∧ 1 ≤ p.mulStages := by
  simp only [Params.legal, Bool.and_eq_true, decide_eq_true_eq] at hp
  obtain ⟨⟨⟨_, hadd⟩, hmul⟩, _⟩ := hp
  exact ⟨hadd, hmul⟩

/-- An admission into a free unit adds exactly the instruction (R167). -/
theorem load_fuAdmit {p : Params} {t : Tracker} {u : FUnit} (i : Inst) (hp : p.legal = true)
    (ht : t.WellShaped p) (h : canAdmit t u = true) : (fuAdmit p t i u).load = t.load + loadAt (some i) := by
  obtain ⟨hadd, hmul, _⟩ := ht
  obtain ⟨h1, h2⟩ := Params.one_le_stages hp
  have ne_of_length : ∀ {l : List (Option Inst)}, 1 ≤ l.length → l ≠ [] := by rintro _ h rfl; cases h
  simp only [Tracker.load_eq]
  cases u with
  | adder =>
    rw [fuAdmit, load_setInput i (ne_of_length (hadd ▸ h1)) (Option.isNone_iff_eq_none.1 h)]
    abel
  | multiplier =>
    rw [fuAdmit, load_setInput i (ne_of_length (hmul ▸ h2)) (Option.isNone_iff_eq_none.1 h)]
    abel
  | divider =>
    rw [(canAdmit_divider t).1 h, loadAt_none]
    simp only [fuAdmit]
    abel

theorem load_trackerAtDecode (s : State) : s.trackerAtDecode.load + loadAt (fuPeek s.fu) = s.fu.load := by
  rw [State.trackerAtDecode, load_fuAdvance, load_fuExit]

/-! ### The stages of a cycle -/

section Cycle

variable {s : State} {d : Cycle}

/-- What the WB stage takes from `slot[WB]` and TERM waits in TERM or retires (R192). -/
theorem loadAt_nextTerm (r : StepResult) (hterm : s.slots.writeback.terminating = true → s.term = none)
    (hr : r.halt = false) :
    loadAt s.nextTerm + ((s.retired r).map Inst.forget : List Inst)
      = loadAt s.slots.writeback.inst + loadAt s.term := by
  unfold State.nextTerm State.retired
  by_cases hw : s.slots.writeback.terminating = true
  · simp [hw, hterm hw, hr]
  · simp [hw, hr, toList_forget, add_comm]

/-- A halt retires what is in `slot[WB]` and what is in TERM (R192, D18). -/
theorem loadAt_retired (r : StepResult) (hterm : s.slots.writeback.terminating = true → s.term = none)
    (hr : r.halt = true) :
    (((s.retired r).map Inst.forget : List Inst) : Multiset Inst)
      = loadAt s.slots.writeback.inst + loadAt s.term := by
  unfold State.retired
  by_cases hw : s.slots.writeback.terminating = true
  · simp [hw, hterm hw, hr, toList_forget]
  · simp [hw, hr, ← toList_forget]

/-- The EX stage moves instructions between `slot[EX]`, the tracker and `slot[MEM]` (R195). -/
theorem loadAt_atDecode (s : State) :
    loadAt s.heldExecute.inst + (loadAt s.nextMemory.inst + s.trackerAtDecode.load)
      = loadAt s.slots.execute.inst + s.fu.load := by
  rw [← load_trackerAtDecode]
  unfold State.heldExecute State.nextMemory
  cases fuPeek s.fu with
  | some f => simp only [Option.isSome_some, if_true, Slot.inst_instr]; abel
  | none => simp

/-- The placement moves an instruction from `slot[ID]` to `slot[EX]` or into the tracker (R201). -/
theorem Placed.loadAt_front {b u : State} (h : Placed b u) (hp : b.params.legal = true)
    (ht : b.fu.WellShaped b.params) :
    loadAt u.slots.execute.inst + u.fu.load
      = loadAt b.slots.decode.inst + (loadAt b.slots.execute.inst + b.fu.load) := by
  cases h with
  | nothing hc hs hfu _ => simp [hc, hs, hfu]
  | bubble hc hfree hs hfu _ =>
    simp [hc, hs, hfu, Slot.inst_of_not_real hfree]
  | unit i x hc _ hfree hs hfu _ =>
    rw [hs, hc, hfu, load_fuAdmit i hp ht hfree]
    simp only [Slot.inst_instr]
    abel
  | execute i hc _ hfree hs hfu _ =>
    simp [hc, hs, hfu, Slot.inst_of_not_real hfree]

/-- The wrong-path instruction in `slot[IF]` that a redirect discards (R203). -/
def State.discarded (s : State) (d : Cycle) : List Inst :=
  if d.res.redirect.isSome ∧ d.s.status = .running then s.slots.fetch.inst.toList else []

/-- The instruction that a cycle fetches, if it notifies the trace (R205). -/
def State.fetched (s : State) (d : Cycle) : List Inst :=
  if d.s.trace = s.trace then [] else d.s.slots.fetch.inst.toList

theorem discarded_of_no_redirect (h : d.res.redirect = none) : s.discarded d = [] := by
  simp [State.discarded, h]

theorem discarded_of_not_running (h : d.s.status ≠ .running) : s.discarded d = [] := by
  simp [State.discarded, h]

theorem fetched_of_trace_eq (h : d.s.trace = s.trace) : s.fetched d = [] := if_pos h

theorem fetched_of_trace_cons {a : Addr} (h : d.s.trace = a :: s.trace) :
    s.fetched d = d.s.slots.fetch.inst.toList :=
  if_neg (by simp [h])

/-- The balance of a cycle: the instructions in flight, retired and discarded against those that were in flight
and those fetched; and the notifications of the trace. -/
def Balanced (s : State) (d : Cycle) : Prop :=
  load d.s.places + ((s.retired d.res ++ s.discarded d).map Inst.forget : List Inst)
      = load s.places + ((s.fetched d).map Inst.forget : List Inst)
    ∧ d.s.trace.length = s.trace.length + (s.fetched d).length

theorem Halts.balanced (o : Halts s d) (hterm : s.slots.writeback.terminating = true → s.term = none) :
    Balanced s d := by
  have hret := loadAt_retired d.res hterm (by rw [o.res])
  rw [Balanced, discarded_of_no_redirect (by rw [o.res]; rfl), fetched_of_trace_eq o.trace, o.trace,
    List.append_nil, hret, load_places, load_places, o.slots, o.term, o.fu]
  refine ⟨?_, by simp⟩
  simp only [Slot.inst_empty, loadAt_none, List.map_nil, Multiset.coe_nil]
  abel

theorem CutShort.balanced (o : CutShort s d) (hterm : s.slots.writeback.terminating = true → s.term = none) :
    Balanced s d := by
  obtain ⟨hhalt, hredirect, _⟩ := o.res
  have hret := loadAt_nextTerm d.res hterm hhalt
  rw [Balanced, discarded_of_no_redirect hredirect, fetched_of_trace_eq o.trace, o.trace, List.append_nil,
    load_places, load_places, o.slots, o.term, o.fu]
  refine ⟨?_, by simp⟩
  simp only [Slot.inst_empty, loadAt_none, List.map_nil, Multiset.coe_nil, add_zero, zero_add]
  calc _ = loadAt s.slots.fetch.inst + loadAt s.slots.decode.inst + loadAt s.slots.execute.inst
        + loadAt s.slots.memory.inst + s.fu.load
        + (loadAt s.nextTerm + ((s.retired d.res).map Inst.forget : List Inst)) := by abel
    _ = _ := by rw [hret]; abel

/-- What the ID and IF stages do to the front: the instructions of `slot[IF]` and `slot[ID]`, of `slot[EX]` and
of the tracker, with the discarded one, against those before and the one fetched. -/
theorem DecodeOutcome.balanced {b : Cycle} (o : DecodeOutcome b d) (hb : Reached s b)
    (hp : s.params.legal = true) (ht : s.fu.WellShaped s.params) :
    loadAt d.s.slots.fetch.inst + (loadAt d.s.slots.decode.inst + (loadAt d.s.slots.execute.inst + d.s.fu.load))
        + ((s.discarded d).map Inst.forget : List Inst)
      = loadAt s.slots.fetch.inst + (loadAt s.slots.decode.inst + (loadAt s.heldExecute.inst + s.trackerAtDecode.load))
        + ((s.fetched d).map Inst.forget : List Inst)
    ∧ d.s.trace.length = s.trace.length + (s.fetched d).length := by
  obtain ⟨_, hredirect, _⟩ := hb.res
  have hshape : b.s.fu.WellShaped b.s.params := by
    rw [hb.fu, hb.params]
    exact fuAdvance_shape (fuExit_shape ht)
  have hplaced : ∀ {u}, Placed b.s u → loadAt u.slots.execute.inst + u.fu.load
      = loadAt s.slots.decode.inst + (loadAt s.heldExecute.inst + s.trackerAtDecode.load) := fun h => by
    rw [h.loadAt_front (hb.params ▸ hp) hshape, hb.decode, hb.execute, hb.fu]
  cases o with
  | stalled slots rest fu _ _ redirect _ =>
    have hx : loadAt (if s.heldExecute = .empty then Slot.bubble else s.heldExecute).inst
        = loadAt s.heldExecute.inst := by
      split
      · rename_i hx; rw [hx]; rfl
      · rfl
    have htrace := rest.trace.trans hb.trace
    rw [discarded_of_no_redirect (redirect.trans hredirect), fetched_of_trace_eq htrace, htrace, slots, fu]
    simp [hb.fetch, hb.decode, hb.execute, hb.fu, hx]
  | held u placed _ slots rest fu _ _ redirect _ =>
    have htrace := rest.trace.trans hb.trace
    rw [discarded_of_no_redirect (redirect.trans hredirect), fetched_of_trace_eq htrace, htrace, slots, fu,
      ← hplaced placed, placed.fetch, hb.fetch]
    simp
  | fetched u x y a placed _ moved slots rest trace fu _ _ redirect _ =>
    have htrace := trace.trans (congrArg _ hb.trace)
    rw [discarded_of_no_redirect (redirect.trans hredirect), fetched_of_trace_cons htrace, htrace, slots, fu,
      ← hplaced placed, ← hb.fetch, toList_forget]
    refine ⟨?_, by simp⟩
    simp only [loadAt_of_forget moved, List.map_nil, Multiset.coe_nil]
    abel
  | turned u placed stopped slots rest fu status _ _ =>
    have htrace := rest.trace.trans hb.trace
    rw [discarded_of_not_running (status ▸ stopped), fetched_of_trace_eq htrace, htrace, slots, fu,
      ← hplaced placed, placed.fetch, hb.fetch]
    simp
  | refetched u y a placed running slots rest trace fu status redirect _ =>
    have htrace := trace.trans (congrArg _ hb.trace)
    have hdisc : s.discarded d = s.slots.fetch.inst.toList := if_pos ⟨redirect, status.trans running⟩
    rw [hdisc, fetched_of_trace_cons htrace, htrace, slots, fu, ← hplaced placed, toList_forget, toList_forget]
    refine ⟨?_, by simp⟩
    simp only [Slot.inst_bubble, Slot.inst_instr, loadAt_none]
    abel

theorem Reached.balanced {b : Cycle} (hb : Reached s b) (o : DecodeOutcome b d)
    (hterm : s.slots.writeback.terminating = true → s.term = none)
    (hp : s.params.legal = true) (ht : s.fu.WellShaped s.params) : Balanced s d := by
  obtain ⟨hmem, hwb, hnext, _⟩ := hb.behind o
  obtain ⟨hhalt, _⟩ := hb.res
  have hret := loadAt_nextTerm d.res hterm (o.kept.halt.trans hhalt)
  have hmove := loadAt_atDecode s
  obtain ⟨hfront, htrace⟩ := o.balanced hb hp ht
  refine ⟨?_, htrace⟩
  rw [load_places, load_places, hmem, hwb, hnext, List.map_append, ← Multiset.coe_add]
  calc _ = (loadAt d.s.slots.fetch.inst + (loadAt d.s.slots.decode.inst + (loadAt d.s.slots.execute.inst + d.s.fu.load))
          + ((s.discarded d).map Inst.forget : List Inst))
        + loadAt s.nextMemory.inst + loadAt s.slots.memory.inst
        + (loadAt s.nextTerm + ((s.retired d.res).map Inst.forget : List Inst)) := by abel
    _ = loadAt s.slots.fetch.inst + loadAt s.slots.decode.inst + loadAt s.slots.memory.inst
        + (loadAt s.heldExecute.inst + (loadAt s.nextMemory.inst + s.trackerAtDecode.load))
        + (loadAt s.slots.writeback.inst + loadAt s.term)
        + ((s.fetched d).map Inst.forget : List Inst) := by rw [hfront, hret]; abel
    _ = _ := by rw [hmove]; abel

theorem CycleOutcome.balanced (o : CycleOutcome s d) (hp : s.params.legal = true)
    (ht : s.fu.WellShaped s.params) (hterm : s.slots.writeback.terminating = true → s.term = none) :
    Balanced s d := by
  cases o with
  | halts h => exact h.balanced hterm
  | cutShort h => exact h.balanced hterm
  | full b hb o => exact hb.balanced o hterm hp ht

/-- The number of instructions that the statement counts as retired. -/
theorem retired_length (r : StepResult) (hhalt : r.halt = true → s.nextTerm.isSome = true) :
    (s.retired r).length = s.retiring + if r.halt then 1 else 0 := by
  unfold State.nextTerm at hhalt
  unfold State.retired State.retiring
  cases hw : s.slots.writeback with
  | empty => cases hr : r.halt <;> cases ht : s.term <;> simp_all [Slot.terminating, Slot.inst, Slot.real]
  | bubble => cases hr : r.halt <;> cases ht : s.term <;> simp_all [Slot.terminating, Slot.inst, Slot.real]
  | instr i =>
    cases hi : i.isTerminating <;> cases hr : r.halt <;> cases ht : s.term <;>
      simp_all [Slot.terminating, Slot.inst, Slot.real]

theorem CycleOutcome.retired (o : CycleOutcome s d) :
    d.s.cnt.instructions = s.cnt.instructions + (s.retired d.res).length := by
  cases o with
  | halts h =>
    obtain ⟨hterm, _⟩ := h.retires
    rw [retired_length _ fun _ => hterm, h.retired, h.res]
    rfl
  | cutShort h =>
    obtain ⟨hhalt, _⟩ := h.res
    rw [retired_length _ (by simp [hhalt]), hhalt, h.retired]
    rfl
  | full b hb o =>
    obtain ⟨hhalt, _⟩ := hb.res
    have hr := o.kept.halt.trans hhalt
    have hcount : d.s.cnt.instructions = b.s.cnt.instructions :=
      o.stalled_or_passed.elim (·.retired) fun ⟨_, h⟩ => h.retired
    rw [retired_length _ (by simp [hr]), hr, hcount, hb.retired]
    rfl

end Cycle

/-- Settles O58: the balance of the cycle's outcome, read as a permutation. -/
theorem cycleConservesInstructions : Obligations.CycleConservesInstructions := by
  intro s t r hp ht hterm hexec hstep
  obtain ⟨_, _, d, hrun, rfl, rfl⟩ := stepped_cycle hexec hstep
  have o := runCycle_outcome hrun
  obtain ⟨hbalance, htrace⟩ := o.balanced hp ht hterm
  refine ⟨Multiset.coe_eq_coe.1 ?_, o.retired, htrace⟩
  rw [← Multiset.coe_add, ← Multiset.coe_add]
  exact hbalance

end Sys2Proof.Machine

/-! PROOFS. What a cycle fetches, counts and reports, whatever the hooks answer (20_memory.md,
45_pipeline_engine.md, 60_exceptions.md). -/

namespace Sys2Proof.Machine

/-! ### The fetch (R203, R205) -/

/-- The instruction at `a` was fetched: the trace is notified, `pc` is IW further, and `slot[IF]` has what the
source lists at `a`. -/
def FetchedAt (s : State) (a : Addr) (t : State) : Prop :=
  t.trace = a :: s.trace ∧ t.pc = a + BitVec.ofNat 64 s.params.iw
  ∧ ∃ i, t.slots.fetch = .instr i ∧ i.addr = a
    ∧ ∀ d, tableFind s.source a = some d → i.ref = d.ref ∧ i.cls = d.cls ∧ i.behaviour = d.behaviour

theorem fetchInst_listed {s : State} {a : Addr} {d : Descriptor} (h : tableFind s.source a = some d) :
    (fetchInst s a).ref = d.ref ∧ (fetchInst s a).cls = d.cls ∧ (fetchInst s a).behaviour = d.behaviour := by
  simp [fetchInst, h]

/-- A fetch on a state with the trace, the parameters and the source of `s`. -/
theorem fetchNext_fetchedAt {s u : State} (htrace : u.trace = s.trace) (hparams : u.params = s.params)
    (hsource : u.source = s.source) : FetchedAt s u.pc (fetchNext u) := by
  refine ⟨by simp [htrace], by simp [hparams], fetchInst u u.pc, by simp, rfl, fun d hd => ?_⟩
  exact fetchInst_listed (hsource ▸ hd)

/-- What a cycle that reached its ID stage does to `slot[IF]`, `slot[ID]`, `pc` and the trace. -/
inductive FrontOutcome (s : State) (d : Cycle) : Prop where
  | unfetched (why : d.s.status ≠ .running ∨ d.res.idStall ≠ none) (trace : d.s.trace = s.trace)
      (pc : d.s.pc = d.res.redirect.getD s.pc) (fetch : d.s.slots.fetch = s.slots.fetch)
  | fetched (running : d.s.status = .running) (stall : d.res.idStall = none)
      (fetched : FetchedAt s (d.res.redirect.getD s.pc) d.s)
      (decode : d.s.slots.decode.forget
        = if d.res.redirect.isSome then .bubble else s.slots.fetch.forget)

section Front

variable {s : State} {b d : Cycle}

theorem ifStage_front {u : State} (hb : Reached s b) (he : Early s b) (front : SameFront b.s u)
    (h : ifStage ⟨u, b.res⟩ = .go d) : FrontOutcome s d := by
  have htrace := front.trace.trans hb.trace
  have hparams := front.params.trans hb.params
  have hsource := front.source.trans he.source
  have hfetch := front.fetch.trans hb.fetch
  have hpc := front.pc.trans he.pc
  rcases ifStage_cases h with e | ⟨hn, e⟩ | ⟨hr, _, e⟩ | ⟨i, brk, i', t, hr, hi, ht, e⟩
  · cases e
  · cases e
    exact .unfetched (.inl hn) htrace (by simpa [he.redirect] using hpc) hfetch
  · cases e
    refine .fetched hr he.idStall ?_ (by simpa [he.redirect, advanceFetch] using congrArg Slot.forget hfetch)
    simp only [he.redirect, Option.getD_none, ← hpc]
    exact fetchNext_fetchedAt (u := { u with slots := { u.slots with decode := u.slots.fetch } })
      htrace hparams hsource
  · obtain ⟨rfl, rfl, _⟩ := runFetchHook_cases ht
    cases e
    refine .fetched hr he.idStall ?_ ?_
    · simp only [he.redirect, Option.getD_none, ← hpc]
      exact fetchNext_fetchedAt (u := { applyHook u _ with slots := { u.slots with decode := .instr _ } })
        htrace hparams hsource
    · have hi : s.slots.fetch = .instr i := hfetch.symm.trans hi
      simp [he.redirect, advanceFetch, hi, Slot.forget, Inst.forget]

theorem DecodeEnd.front (h : DecodeEnd b d) (hb : Reached s b) (he : Early s b) : FrontOutcome s d := by
  cases h with
  | stalls u k front slots h =>
    cases h
    exact .unfetched (.inr (by simp)) (front.trace.trans hb.trace)
      (by simpa [he.redirect] using front.pc.trans he.pc) (front.fetch.trans hb.fetch)
  | proceeds u front h => exact ifStage_front hb he front h
  | redirects u target front h =>
    obtain ⟨v, e, ⟨hr, rfl⟩ | ⟨hn, rfl⟩⟩ := redirectCycle_cases h <;> cases e
    · exact .fetched hr he.idStall (fetchNext_fetchedAt
        (u := { u with slots := { u.slots with decode := .bubble }, pc := target })
        (front.trace.trans hb.trace) (front.params.trans hb.params) (front.source.trans he.source)) rfl
    · exact .unfetched (.inl hn) (front.trace.trans hb.trace) rfl (front.fetch.trans hb.fetch)

end Front

/-- Settles O43: a cycle that halts or is cut short fetches nothing; any other ends as its ID and IF stages
leave the front. -/
theorem peStepFetchesAtMostOnce : Obligations.PeStepFetchesAtMostOnce := by
  intro s t r hexec hstep
  obtain ⟨_, _, d, hrun, rfl, rfl⟩ := stepped_cycle hexec hstep
  cases runCycle_end hrun with
  | halts h early =>
    rw [if_neg (by simp [h.res])]
    exact ⟨h.trace, by simpa [early.redirect] using early.pc, by simp [h.slots]⟩
  | cutShort h early =>
    rw [if_neg (by simp [h.res])]
    exact ⟨h.trace, by simpa [early.redirect] using early.pc, by simp [h.slots]⟩
  | full b hb early o e =>
    obtain ⟨hhalt, _, _, himm, _⟩ := hb.res
    cases e.front hb early with
    | unfetched why trace pc fetch =>
      have hnot : ¬((d.s.done (.step d.res)).status = .running ∧ d.res.idStall = none
          ∧ d.res.halt = false ∧ d.res.syncImmediate = false) := fun ⟨h1, h2, _⟩ => why.elim (· h1) (· h2)
      rw [if_neg hnot]
      exact ⟨trace, pc, fetch⟩
    | fetched running stall fetched decode =>
      rw [if_pos ⟨running, stall, o.kept.halt.trans hhalt, o.kept.immediate.trans himm⟩]
      obtain ⟨htrace, hpc, hfetch⟩ := fetched
      exact ⟨htrace, hpc, decode, hfetch⟩

/-! ### The prediction and the breakpoint of the instruction from `slot[IF]` (R190, R205) -/

/-- The instruction with the prediction that its fetch hook keeps (R145). -/
def Inst.predicted (i : Inst) (c : Conforming) (p : Params) (b : Predictor) : Inst :=
  if c.control.predicts then { i with pred := bpPredict p b i.addr } else i

/-- IF stage of a RUNNING engine, for a conforming instruction in `slot[IF]`. -/
theorem ifStage_conforming {c : Cycle} {f : Inst} {k : Conforming} (hr : c.s.status = .running)
    (hf : c.s.slots.fetch = .instr f) (hk : f.behaviour = .conforming k) :
    ifStage c = .go { s := advanceFetch (.instr (f.predicted k c.s.params c.s.pred)) c.s
                      res := { c.res with breakpoint := c.res.breakpoint || k.breakpoint } } := by
  simp [ifStage, hr, hf, runFetchHook_conforming _ hk, Inst.predicted]

theorem predicts_iff (x : Control) :
    x.predicts = true ↔ (∃ target, x = .branch true target) ∨ ∃ target, x = .jump true target := by
  cases x <;> simp [Control.predicts]

/-- Settles O51: the cycle got past the ID stage without a stall or a redirect, so its IF stage ran. -/
theorem peStepMovesFetched : Obligations.PeStepMovesFetched := by
  intro s t r f c hexec hstep hr hstall hredirect hhalt himm hf hc
  obtain ⟨_, _, d, hrun, rfl, rfl⟩ := stepped_cycle hexec hstep
  cases runCycle_end hrun with
  | halts h _ => exact absurd hhalt (by simp [h.res])
  | cutShort h _ => exact absurd himm (by simp [h.res])
  | full b hb early _ e =>
    cases e with
    | stalls u k _ _ h => cases h; cases hstall
    | redirects u target _ h =>
      obtain ⟨v, e, _⟩ := redirectCycle_cases h
      cases e
      cases hredirect
    | proceeds u front h =>
      have hru : u.status = .running := by
        by_contra hn
        rw [ifStage_of_not_running hn] at h
        cases h
        exact hn hr
      rw [ifStage_conforming hru ((front.fetch.trans hb.fetch).trans hf) hc] at h
      cases h
      refine ⟨by simp [early.breakpoint], ?_⟩
      simp [advanceFetch, Inst.predicted, predicts_iff, ← front.params.trans hb.params]

/-! ### The counters (R36, R196, R202) -/

section Counters

variable {s : State} {b d : Cycle}

/-- What the ID and IF stages count: the stall in ID that they report (R202). -/
theorem DecodeEnd.cnt (h : DecodeEnd b d) (hb : b.res.idStall = none) :
    (d.res.idStall = none ∧ d.s.cnt = b.s.cnt) ∨ ∃ k, d.res.idStall = some k ∧ d.s.cnt = countStall b.s.cnt k := by
  cases h with
  | stalls u k front _ h =>
    cases h
    exact .inr ⟨k, rfl, congrArg (countStall · k) front.cnt⟩
  | proceeds u front h =>
    refine .inl ⟨(ifStage_res h).1.trans hb, ?_⟩
    rcases ifStage_cases h with e | ⟨_, e⟩ | ⟨_, _, e⟩ | ⟨i, brk, i', t, _, _, ht, e⟩
    · cases e
    · cases e; exact front.cnt
    · cases e; exact front.cnt
    · obtain ⟨rfl, _⟩ := runFetchHook_cases ht
      cases e
      exact front.cnt
  | redirects u target front h =>
    refine .inl ?_
    obtain ⟨v, e, ⟨_, rfl⟩ | ⟨_, rfl⟩⟩ := redirectCycle_cases h <;> cases e <;> exact ⟨hb, front.cnt⟩

/-- The ID and IF stages report no error (R191). -/
theorem DecodeEnd.notRunning (h : DecodeEnd b d) : d.res.notRunning = b.res.notRunning := by
  cases h with
  | stalls u k _ _ h => cases h; rfl
  | proceeds u _ h =>
    obtain ⟨_, _, h⟩ := ifStage_res h
    exact h
  | redirects u target _ h =>
    obtain ⟨v, e, _⟩ := redirectCycle_cases h
    cases e
    rfl

/-- What a cycle counts: itself, the stall in ID and the memory stall that it reports; and it reports no
error. -/
structure Counted (s : State) (d : Cycle) : Prop where
  notRunning : d.res.notRunning = false
  cycles : d.s.cnt.cycles = s.cnt.cycles + 1
  raw : d.s.cnt.raw = s.cnt.raw + if d.res.idStall = some .raw then 1 else 0
  waw : d.s.cnt.waw = s.cnt.waw + if d.res.idStall = some .waw then 1 else 0
  divider : d.s.cnt.divider = s.cnt.divider + if d.res.idStall = some .divider then 1 else 0
  funit : d.s.cnt.funit = s.cnt.funit + if d.res.idStall = some .funit then 1 else 0
  ex : d.s.cnt.ex = s.cnt.ex + if d.res.idStall = some .ex then 1 else 0
  memory : d.s.cnt.memory = s.cnt.memory + if d.res.memStall then 1 else 0

theorem Early.counted (h : Early s d) : Counted s d := by
  have hstall := h.idStall
  exact ⟨h.notRunning, h.cycles, by simp [hstall, h.raw], by simp [hstall, h.waw], by simp [hstall, h.divider],
    by simp [hstall, h.funit], by simp [hstall, h.ex], h.memory⟩

theorem Early.counted_stall {k : Stall} (h : Early s b) (hr : d.res.notRunning = b.res.notRunning)
    (hk : d.res.idStall = some k) (hm : d.res.memStall = b.res.memStall)
    (hcnt : d.s.cnt = countStall b.s.cnt k) : Counted s d := by
  refine ⟨hr.trans h.notRunning, ?_, ?_, ?_, ?_, ?_, ?_, ?_⟩ <;> rw [hcnt] <;>
    obtain ⟨_, _, _, _, _, hcycles, hraw, hwaw, hdiv, hfu, hex, hmem⟩ := h <;> cases k <;>
    simp [countStall, hk, hm, hcycles, hraw, hwaw, hdiv, hfu, hex, hmem]

theorem DecodeEnd.counted (h : DecodeEnd b d) (hb : Early s b) (hkept : KeptRecord b.res d.res) :
    Counted s d := by
  rcases h.cnt hb.idStall with ⟨hstall, hcnt⟩ | ⟨k, hk, hcnt⟩
  · obtain ⟨h0, h1, h2, h3, h4, h5, h6, h7⟩ := hb.counted
    rw [hb.idStall] at h2 h3 h4 h5 h6
    refine ⟨h.notRunning.trans h0, ?_, ?_, ?_, ?_, ?_, ?_, ?_⟩ <;> rw [hcnt] <;>
      simpa [hstall, hkept.memStall]
  · exact hb.counted_stall h.notRunning hk hkept.memStall hcnt

theorem CycleEnd.counted (h : CycleEnd s d) : Counted s d := by
  cases h with
  | halts _ early => exact early.counted
  | cutShort _ early => exact early.counted
  | full b _ early o e => exact e.counted early o.kept

/-! ### `slot[EX]` and a stall (R196, R201, R202) -/

/-- What an exit holds in `slot[EX]` when no memory stall is reported is nothing real, and a stall leaves a
bubble there. -/
theorem heldExecute_stall (s : State) :
    (if s.heldExecute = .empty then .bubble else s.heldExecute)
      = if (fuPeek s.fu).isSome && s.slots.execute.real then s.slots.execute else .bubble := by
  unfold State.heldExecute
  cases (fuPeek s.fu).isSome <;> cases s.slots.execute <;> rfl

/-- What a stall in ID leaves: everything in front for the retry, and a bubble in `slot[EX]` unless that holds a
real instruction. -/
theorem DecodeEnd.of_stall (h : DecodeEnd b d) (hb : Reached s b) (he : Early s b)
    (hs : d.res.idStall ≠ none) :
    d.s.slots.decode = s.slots.decode ∧ d.s.slots.fetch = s.slots.fetch ∧ d.s.pc = s.pc
    ∧ d.s.trace = s.trace ∧ d.s.slots.execute = if d.res.memStall then s.slots.execute else .bubble := by
  obtain ⟨_, _, _, _, hmem⟩ := hb.res
  cases h with
  | stalls u k front slots h =>
    cases h
    refine ⟨?_, front.fetch.trans hb.fetch, front.pc.trans he.pc, front.trace.trans hb.trace, ?_⟩
    · simp [slots, hb.decode]
    · simp only [slots, hb.execute, heldExecute_stall, hmem]
  | proceeds u front h => exact absurd ((ifStage_res h).1.trans he.idStall) hs
  | redirects u target front h =>
    obtain ⟨v, e, _⟩ := redirectCycle_cases h
    cases e
    exact absurd he.idStall hs

/-- What a cycle without a stall leaves in `slot[EX]`. -/
theorem DecodeOutcome.execute_of_no_stall (o : DecodeOutcome b d) (hb : Reached s b)
    (hs : d.res.idStall = none) :
    d.s.slots.execute = match s.slots.decode with
      | .empty => s.heldExecute
      | .bubble => .bubble
      | .instr i => if i.fpUnit.isSome then s.heldExecute else .instr i := by
  rcases o.stalled_or_passed with h | ⟨u, h⟩
  · exact absurd hs h.stall
  · rw [h.execute, ← hb.decode, ← hb.execute]
    cases h.placed with
    | nothing hc hs _ _ => rw [hc, hs]
    | bubble hc _ hs _ _ => rw [hc, hs]
    | unit i x hc hi _ hs _ _ => rw [hc, hs]; simp [hi]
    | execute i hc hi _ hs _ _ => rw [hc, hs]; simp [hi]

end Counters

/-- Settles O45: the frame and the counters hold of every cycle; the slots are those of its outcome. -/
theorem peStepCountsStalls : Obligations.PeStepCountsStalls := by
  intro s t r hexec hstep
  obtain ⟨_, _, d, hrun, rfl, rfl⟩ := stepped_cycle hexec hstep
  obtain ⟨hparams, hcfg, hsource, hinputs⟩ := runCycle_frame hrun
  have hend := runCycle_end hrun
  obtain ⟨_, hcycles, hraw, hwaw, hdiv, hfu, hex, hmem⟩ := hend.counted
  refine ⟨hparams, hcfg, hsource, hinputs, hcycles, hraw, hwaw, hdiv, hfu, hex, hmem, ?_⟩
  cases hend with
  | halts h early =>
    refine ⟨fun hs => absurd early.idStall hs, by simp [h.res, StepResult.init], fun _ hhalt => ?_⟩
    exact absurd hhalt (by simp [h.res])
  | cutShort h early =>
    refine ⟨fun hs => absurd early.idStall hs, by simp [h.res], fun _ _ himm => ?_⟩
    exact absurd himm (by simp [h.res])
  | full b hb early o e =>
    obtain ⟨hhalt, _, _, himm, hmemStall⟩ := hb.res
    refine ⟨e.of_stall hb early, ?_, fun hs _ _ => o.execute_of_no_stall hb hs⟩
    rw [o.kept.memStall, hmemStall, o.kept.halt, hhalt, o.kept.immediate, himm]
    rfl

end Sys2Proof.Machine

/-! PROOFS. The cycle of an engine whose instructions conform (45_pipeline_engine.md): it halts, it is cut short
by an immediate exception, or it reaches its ID stage, in each case with the state and the record written out. -/

namespace Sys2Proof.Machine

section Regimes

variable {s : State}

/-! ### The cycle that halts (R192) -/

theorem afterWriteback_term (s : State) : (afterWriteback s).term = s.nextTerm := rfl

/-- The state and the record of a cycle in which a conforming terminating instruction retires. -/
def State.haltedCycle (s : State) (k : Conforming) : Cycle :=
  { s := { s with
      slots := { s.slots with writeback := .empty }
      regs := writtenRegs s.regsAtDecode k
      cnt := { s.cnt with
        cycles := s.cnt.cycles + 1
        instructions := s.cnt.instructions + s.slots.writeback.retires.toNat + 1 }
      term := none
      status := .halted }
    res := { StepResult.init with halt := true } }

theorem runCycle_halts {h : Inst} {k : Conforming}
    (hwb : ∀ i, s.slots.writeback = .instr i → ∃ k, i.behaviour = .conforming k)
    (hterm : s.nextTerm = some h) (hk : h.behaviour = .conforming k) (hempty : trackerEmpty s.fu = true)
    (hmem : s.slots.memory.real = false) : runCycle s = .ends (s.haltedCycle k) := by
  have hstage : wbStage (beginCycle s) = .ends (s.haltedCycle k) := by
    unfold wbStage retireTerminating
    rw [consumeWriteback_conforming (s := (beginCycle s).s) hwb]
    simp only [afterWriteback_term, show (beginCycle s).s.nextTerm = some h from hterm, runOkHook_writeback _ hk]
    rw [if_pos (by simp only [afterWriteback, beginCycle, hempty, hmem]; rfl)]
    rfl
  simp only [runCycle, hstage, Flow.andThen]

/-- Settles O40: in both arrivals the terminating instruction is in TERM after the first half of the WB
stage. -/
theorem peStepHalts : Obligations.PeStepHalts := by
  intro s h c hs harrives hc hempty hmem
  have hrun : runCycle s = .ends (s.haltedCycle c) := by
    rcases harrives with ⟨hwb, hterm⟩ | ⟨hwb, hconf, hterm⟩
    · refine runCycle_halts (fun i hi => ?_) ?_ hc hempty hmem
      · rw [hwb] at hi
        cases hi
        exact ⟨c, hc⟩
      · simp [State.nextTerm, hwb, Slot.terminating, hterm, Slot.inst]
    · refine runCycle_halts (fun i hi => ?_) ((nextTerm_of_not_terminating hwb).trans hterm) hc hempty hmem
      rw [hi] at hconf
      exact Inst.conforms_iff.1 hconf
  exact exec_peStep_ends hs hrun

/-! ### The cycle that does not halt -/

/-- The cycle as its EX stage finds it. -/
def State.cycleAtExecute (s : State) : Cycle :=
  { s := moveToWriteback (afterWriteback (beginCycle s).s), res := StepResult.init }

theorem runCycle_of_notHalting (ha : s.AllConform) (hn : s.NotHalting) :
    runCycle s = (exStage s.cycleAtExecute).andThen (idStage ifStage) := by
  have hwb : wbStage (beginCycle s) = .go { beginCycle s with s := afterWriteback (beginCycle s).s } :=
    wbStage_conforming hn fun i hi => ha.slot .writeback hi
  have hmem : memStage { beginCycle s with s := afterWriteback (beginCycle s).s } = .go s.cycleAtExecute :=
    memStage_conforming rfl fun i hi => ha.slot .memory hi
  simp only [runCycle, hwb, Flow.andThen, hmem]

/-- The state and the record of a cycle that an immediate exception cuts short (R197, R240). -/
def State.cutCycle (s : State) (kind : Nat) : Cycle :=
  { s := { s.cycleAtExecute.s with aborted := true }
    res := { StepResult.init with sync := some kind, syncImmediate := true } }

/-- The execute hook of a conforming instruction hands its exception to the policy. -/
theorem executeInst_conforming {e : Inst} {k : Conforming} (c : Cycle) (he : e.behaviour = .conforming k) :
    executeInst e c = raiseSync c k.exception := by
  simp [executeInst, runExecuteHook_conforming _ he]

theorem raiseSync_immediate {c : Cycle} {kind : Nat} (hm : c.s.cfg.syncMasked = false)
    (ht : c.s.cfg.syncTerminate = true) :
    raiseSync c (some kind) = .ends { s := { c.s with aborted := true },
                                      res := { c.res with sync := some kind, syncImmediate := true } } := by
  simp [raiseSync, hm, ht]

theorem exStage_cutShort {c : Cycle} {e : Inst} {k : Conforming} {kind : Nat} (hm : c.s.cfg.syncMasked = false)
    (ht : c.s.cfg.syncTerminate = true) (he : c.s.executing = some e) (hk : e.behaviour = .conforming k)
    (hx : k.exception = some kind) :
    exStage c = .ends { s := { c.s with aborted := true },
                        res := { c.res with sync := some kind, syncImmediate := true } } := by
  unfold State.executing at he
  unfold exStage
  cases hf : fuPeek c.s.fu with
  | some f =>
    rw [hf] at he
    cases he
    simp only [executeInst_conforming c hk, hx, raiseSync_immediate hm ht, Flow.andThen]
  | none =>
    rw [hf] at he
    cases hs : c.s.slots.execute with
    | empty => rw [hs] at he; cases he
    | bubble => rw [hs] at he; cases he
    | instr i =>
      rw [hs] at he
      cases he
      simp only [executeInst_conforming c hk, hx, raiseSync_immediate hm ht, Flow.andThen]

theorem State.exception_of_executing {e : Inst} {k : Conforming} (he : s.executing = some e)
    (hk : e.behaviour = .conforming k) : s.exception = k.exception := by
  simp [State.exception, he, hk]

theorem State.exception_eq_some {kind : Nat} (h : s.exception = some kind) :
    ∃ e k, s.executing = some e ∧ e.behaviour = .conforming k ∧ k.exception = some kind := by
  unfold State.exception at h
  split at h
  · cases h
  · rename_i e he
    split at h
    · cases h
    · rename_i k hk
      exact ⟨e, k, he, hk, h⟩

theorem runCycle_cutShort {kind : Nat} (ha : s.AllConform) (hn : s.NotHalting)
    (hm : s.cfg.syncMasked = false) (ht : s.cfg.syncTerminate = true) (hx : s.exception = some kind) :
    runCycle s = .ends (s.cutCycle kind) := by
  obtain ⟨e, k, he, hk, hx⟩ := State.exception_eq_some hx
  rw [runCycle_of_notHalting ha hn, exStage_cutShort (e := e) (k := k) (kind := kind) hm ht he hk hx]
  rfl

/-- The cycle as its ID stage finds it, when nothing cut it short. -/
def State.cycleAtDecode (s : State) : Cycle :=
  { s := { s.cycleAtExecute.s with
      fu := s.trackerAtDecode
      cnt := { s.cnt with
        cycles := s.cnt.cycles + 1
        instructions := s.cnt.instructions + s.slots.writeback.retires.toNat
        memory := s.cnt.memory + ((fuPeek s.fu).isSome && s.slots.execute.real).toNat }
      slots := { s.slots with
        execute := s.heldExecute
        memory := s.nextMemory
        writeback := s.slots.memory } }
    res := { StepResult.init with
      masked := if s.cfg.syncMasked then s.exception else none
      sync := if s.cfg.syncMasked then none else s.exception
      memStall := (fuPeek s.fu).isSome && s.slots.execute.real } }

theorem runCycle_conforming (ha : s.AllConform) (hn : s.NotHalting) (hp : s.NotCutShort) :
    runCycle s = idStage ifStage s.cycleAtDecode := by
  obtain ⟨d, hd, hs, m, y, hres, hquiet, hloud⟩ := exStage_conforming (c := s.cycleAtExecute) hp
    fun e he => ha.executing (s := s) he
  have hx : s.cycleAtExecute.s.exception = s.exception := rfl
  have hstate : d.s = s.cycleAtDecode.s := by
    rw [hs]
    simp only [show s.cycleAtExecute.s.fu = s.fu from rfl,
      show s.cycleAtExecute.s.slots.execute = s.slots.execute from rfl,
      State.cycleAtDecode, State.heldExecute, State.nextMemory]
    cases fuPeek s.fu with
    | none => rfl
    | some f => cases s.slots.execute.real <;> rfl
  have hrecord : d.res = s.cycleAtDecode.res := by
    rw [hres]
    have hmy : m = (if s.cfg.syncMasked then s.exception else none)
        ∧ y = if s.cfg.syncMasked then none else s.exception := by
      cases hex : s.exception with
      | none =>
        obtain ⟨rfl, rfl⟩ := hquiet (hx.trans hex)
        simp [State.cycleAtExecute, StepResult.init]
      | some kind =>
        obtain ⟨hmask, hdefer⟩ := hloud kind (hx.trans hex)
        by_cases hm : s.cfg.syncMasked = true
        · obtain ⟨rfl, rfl⟩ := hmask hm
          simp [hm, State.cycleAtExecute, StepResult.init]
        · obtain ⟨rfl, rfl⟩ := hdefer (Bool.eq_false_iff.2 hm)
          simp [hm, State.cycleAtExecute, StepResult.init]
    obtain ⟨rfl, rfl⟩ := hmy
    rfl
  rw [runCycle_of_notHalting ha hn, hd, Flow.andThen]
  congr 1
  cases d
  cases hstate
  cases hrecord
  rfl

/-- A cycle that does not halt and is cut short meets an exception that the policy makes immediate. -/
theorem exception_of_not_notCutShort (ha : s.AllConform) (hp : ¬s.NotCutShort) :
    s.cfg.syncMasked = false ∧ s.cfg.syncTerminate = true ∧ ∃ kind, s.exception = some kind := by
  obtain ⟨hm, ht, hx⟩ : s.cfg.syncMasked = false ∧ s.cfg.syncTerminate = true
      ∧ (s.executing.any Inst.excepts) = true := by
    simpa [State.NotCutShort, not_or] using hp
  refine ⟨hm, ht, ?_⟩
  obtain ⟨e, he, hexc⟩ := (Option.any_eq_true _ _).1 hx
  obtain ⟨k, hk⟩ := ha.executing he
  rw [State.exception_of_executing he hk]
  exact Option.isSome_iff_exists.1 (by simpa [Inst.excepts, hk] using hexc)

/-- A halting cycle of conforming instructions has a terminating instruction to retire. -/
theorem retires_of_not_notHalting (hn : ¬s.NotHalting) :
    s.nextTerm.isSome = true ∧ trackerEmpty s.fu = true ∧ s.slots.memory.real = false := by
  simp only [State.NotHalting, not_or, not_and_or, Bool.not_eq_false, Bool.not_eq_true] at hn
  obtain ⟨hterm, hempty, hmem⟩ := hn
  refine ⟨?_, hempty, hmem⟩
  by_cases hw : s.slots.writeback.terminating = true
  · exact nextTerm_of_terminating hw
  · rw [nextTerm_of_not_terminating (Bool.eq_false_iff.2 hw)]
    exact Option.ne_none_iff_isSome.1 (hterm.resolve_right hw)

theorem not_retires_of_notHalting (hn : s.NotHalting) : ¬s.Retires := by
  rintro ⟨hterm, hempty, hmem⟩
  rcases hn with ⟨ht, hw⟩ | hn | hn
  · rw [nextTerm_of_not_terminating hw, ht] at hterm
    cases hterm
  · rw [hempty] at hn; cases hn
  · rw [hmem] at hn; cases hn

/-- What waits in TERM after the WB stage conforms when every instruction in flight does. -/
theorem State.AllConform.nextTerm {h : Inst} (ha : s.AllConform) (hh : s.nextTerm = some h) :
    ∃ k, h.behaviour = .conforming k := by
  unfold State.nextTerm at hh
  split at hh
  · cases hw : s.slots.writeback with
    | empty => rw [hw] at hh; cases hh
    | bubble => rw [hw] at hh; cases hh
    | instr i =>
      rw [hw] at hh
      cases hh
      exact ha.slot .writeback hw
  · rw [← Inst.conforms_iff]
    exact ha (some h) (by simp [State.places, hh])

/-- The three regimes of a cycle of conforming instructions. -/
theorem runCycle_regimes (ha : s.AllConform) :
    (¬s.NotHalting ∧ ∃ h k, s.nextTerm = some h ∧ h.behaviour = .conforming k
        ∧ runCycle s = .ends (s.haltedCycle k))
    ∨ (s.NotHalting ∧ ¬s.NotCutShort ∧ ∃ kind, s.exception = some kind
        ∧ runCycle s = .ends (s.cutCycle kind))
    ∨ (s.NotHalting ∧ s.NotCutShort ∧ runCycle s = idStage ifStage s.cycleAtDecode) := by
  by_cases hn : s.NotHalting
  · by_cases hp : s.NotCutShort
    · exact .inr (.inr ⟨hn, hp, runCycle_conforming ha hn hp⟩)
    · obtain ⟨hm, ht, kind, hx⟩ := exception_of_not_notCutShort ha hp
      exact .inr (.inl ⟨hn, hp, kind, hx, runCycle_cutShort ha hn hm ht hx⟩)
  · obtain ⟨hterm, hempty, hmem⟩ := retires_of_not_notHalting hn
    obtain ⟨h, hh⟩ := Option.isSome_iff_exists.1 hterm
    obtain ⟨k, hk⟩ := ha.nextTerm hh
    exact .inl ⟨hn, h, k, hh, hk, runCycle_halts (fun i hi => ha.slot .writeback hi) hh hk hempty hmem⟩

end Regimes

/-! ### The ID stage of conforming instructions (R199 to R203) -/

section Decode

variable {i : Inst} {k : Conforming} {next : NextStage} {c : Cycle}

/-- The placement of an instruction by its class (R201). -/
def Inst.place (i : Inst) (s : State) : State :=
  match i.fpUnit with
  | some u => placeInUnit i u s
  | none => placeInExecute i s

theorem Inst.place_unit {u : FUnit} (hu : i.fpUnit = some u) : i.place = placeInUnit i u :=
  funext fun s => by simp only [place, hu]

theorem Inst.place_execute (hu : i.fpUnit = none) : i.place = placeInExecute i :=
  funext fun s => by simp only [place, hu]

/-- The resource that an instruction needs is there in the state that its ID stage finds (R199). -/
def Inst.hasResource (i : Inst) (s : State) : Bool :=
  match i.fpUnit with
  | some u => canAdmit s.fu u
  | none => !s.slots.execute.real

/-- The stall on a missing resource (R199, R202). -/
def Inst.resourceStall (i : Inst) : Stall :=
  match i.fpUnit with
  | none => .ex
  | some .divider => .divider
  | some .adder => .funit
  | some .multiplier => .funit

theorem Inst.hasResource_unit {u : FUnit} (hu : i.fpUnit = some u) (s : State) :
    i.hasResource s = canAdmit s.fu u := by simp only [hasResource, hu]

theorem Inst.hasResource_execute (hu : i.fpUnit = none) (s : State) :
    i.hasResource s = !s.slots.execute.real := by simp only [hasResource, hu]

theorem idStage_unit {u : FUnit} (hd : c.s.slots.decode = .instr i) (hu : i.fpUnit = some u) :
    idStage next c = decodeFp i u next c := by simp only [idStage, hd, hu]

theorem idStage_execute (hd : c.s.slots.decode = .instr i) (hu : i.fpUnit = none) :
    idStage next c = decodeInt i next c := by simp only [idStage, hd, hu]

theorem idStage_free (hd : c.s.slots.decode = .instr i) (h : i.hasResource c.s = true) :
    idStage next c = decodeAndPlace i i.place next c := by
  cases hu : i.fpUnit with
  | some u =>
    rw [Inst.hasResource_unit hu] at h
    rw [idStage_unit hd hu, Inst.place_unit hu]
    simp only [decodeFp, h, if_true]
  | none =>
    rw [Inst.hasResource_execute hu, Bool.not_eq_true'] at h
    rw [idStage_execute hd hu, Inst.place_execute hu, decodeInt, if_neg (Bool.eq_false_iff.1 h)]

theorem idStage_blocked (hd : c.s.slots.decode = .instr i) (h : i.hasResource c.s = false) :
    idStage next c = stallCycle c i.resourceStall := by
  cases hu : i.fpUnit with
  | some u =>
    rw [Inst.hasResource_unit hu] at h
    rw [idStage_unit hd hu]
    simp only [decodeFp, h, Bool.false_eq_true, if_false, Inst.resourceStall, hu]
    cases u <;> rfl
  | none =>
    rw [Inst.hasResource_execute hu, Bool.not_eq_false'] at h
    rw [idStage_execute hd hu, decodeInt, if_pos h, Inst.resourceStall, hu]

/-- The outcome of a conforming branch (R145), and that of a jump. -/
def Conforming.taken (k : Conforming) (collab : Collab) : Bool :=
  match k.control with
  | .sequential => false
  | .jump _ _ => true
  | .branch _ _ => (nextOutcome collab).1

/-- The address a conforming instruction redirects to (R187). -/
def Conforming.redirectsTo (k : Conforming) (collab : Collab) : Option Addr :=
  match k.control with
  | .sequential => none
  | .jump _ target => some target
  | .branch _ target => if k.taken collab then some target else none

/-- The state after the decode hook of a conforming instruction without a hazard (R187, R145). -/
def Inst.decoded (i : Inst) (k : Conforming) (s : State) : State :=
  { s with
    regs := raisedRegs s.regs k
    pred := if k.control.predicts then
        bpResolve s.params s.pred i.addr (if k.taken s.collab then .taken else .notTaken) i.pred
      else s.pred
    collab := match k.control with
      | .sequential => s.collab
      | .jump _ _ => s.collab
      | .branch _ _ => (nextOutcome s.collab).2 }

theorem decodeAndPlace_hazard {place : State → State} {x : Stall} (hk : i.behaviour = .conforming k)
    (hx : hazardOf c.s.regs k = some x) : decodeAndPlace i place next c = stallCycle c x := by
  simp only [decodeAndPlace, runDecodeHook_hazard hk hx]

theorem decodeAndPlace_clear {place : State → State} (hk : i.behaviour = .conforming k)
    (hx : hazardOf c.s.regs k = none) :
    decodeAndPlace i place next c = match k.redirectsTo c.s.collab with
      | none => next { c with s := place (i.decoded k c.s) }
      | some target => redirectCycle { c with s := place (i.decoded k c.s) } target := by
  unfold decodeAndPlace
  rw [runDecodeHook_clear hk hx]
  unfold Inst.decoded Conforming.redirectsTo Conforming.taken
  cases hc : k.control with
  | sequential => simp [Control.predicts]
  | jump uses target => cases uses <;> simp [Control.predicts]
  | branch uses target => cases ht : (nextOutcome c.s.collab).1 <;> cases uses <;> simp [Control.predicts]

end Decode

/-! ### The end of a cycle of conforming instructions -/

/-- What the IF stage and a redirect leave of the state that the ID stage made. -/
structure SameBack (u v : State) : Prop where
  regs : v.regs = u.regs
  pred : v.pred = u.pred
  fu : v.fu = u.fu
  collab : v.collab = u.collab
  execute : v.slots.execute = u.slots.execute

theorem ifStage_answers {c : Cycle}
    (hf : ∀ f, c.s.slots.fetch = .instr f → ∃ k, f.behaviour = .conforming k) :
    ∃ d, ifStage c = .go d ∧ SameBack c.s d.s ∧ d.res.idStall = c.res.idStall
      ∧ d.res.redirect = c.res.redirect := by
  by_cases hr : c.s.status = .running
  · cases hs : c.s.slots.fetch with
    | empty =>
      exact ⟨{ c with s := advanceFetch .empty c.s }, by simp only [ifStage, hr, hs, if_true],
        ⟨rfl, rfl, rfl, rfl, rfl⟩, rfl, rfl⟩
    | bubble =>
      exact ⟨{ c with s := advanceFetch .bubble c.s }, by simp only [ifStage, hr, hs, if_true],
        ⟨rfl, rfl, rfl, rfl, rfl⟩, rfl, rfl⟩
    | instr f =>
      obtain ⟨k, hk⟩ := hf f hs
      exact ⟨_, ifStage_conforming hr hs hk, ⟨rfl, rfl, rfl, rfl, rfl⟩, rfl, rfl⟩
  · exact ⟨_, ifStage_of_not_running hr, ⟨rfl, rfl, rfl, rfl, rfl⟩, rfl, rfl⟩

theorem redirectCycle_answers (c : Cycle) (target : Addr) :
    ∃ d, redirectCycle c target = .ends d ∧ SameBack c.s d.s ∧ d.res.idStall = c.res.idStall
      ∧ d.res.redirect = some target ∧ d.s.slots.decode = .bubble := by
  obtain ⟨u, h, ⟨_, rfl⟩ | ⟨_, rfl⟩⟩ := redirectCycle_cases (c := c) (target := target) rfl
  · exact ⟨_, h, ⟨rfl, rfl, rfl, rfl, rfl⟩, rfl, rfl, rfl⟩
  · exact ⟨_, h, ⟨rfl, rfl, rfl, rfl, rfl⟩, rfl, rfl, rfl⟩

/-- A cycle, accepted or ended by a stage. -/
def Runs (f : Flow) (d : Cycle) : Prop := f = .go d ∨ f = .ends d

theorem exec_peStep_runs {s : State} {d : Cycle} (hs : s.Steps) (h : Runs (runCycle s) d) :
    exec .peStep s = .next (d.s.done (.step d.res)) :=
  h.elim (exec_peStep_go hs) (exec_peStep_ends hs)

section AtDecode

variable {s : State} {i : Inst} {k : Conforming}

theorem cycleAtDecode_hasResource (s : State) (i : Inst) :
    i.hasResource s.cycleAtDecode.s = s.resourceFree i := by
  unfold State.resourceFree
  cases hu : i.fpUnit with
  | some u => exact Inst.hasResource_unit hu _
  | none =>
    rw [Inst.hasResource_execute hu, show s.cycleAtDecode.s.slots.execute = s.heldExecute from rfl,
      State.heldExecute]
    cases fuPeek s.fu <;> rfl

/-- A placement leaves `slot[IF]` and the registers. -/
theorem Inst.place_frame (i : Inst) (u : State) :
    (i.place u).slots.fetch = u.slots.fetch ∧ (i.place u).regs = u.regs := by
  unfold Inst.place
  split <;> exact ⟨rfl, rfl⟩

/-- The attempt without a hazard (R187, R201, R203). -/
theorem idStage_decodes (ha : s.AllConform) (hd : s.slots.decode = .instr i) (hk : i.behaviour = .conforming k)
    (hfree : s.resourceFree i = true) (hx : hazardOf s.regsAtDecode k = none) :
    ∃ d, Runs (idStage ifStage s.cycleAtDecode) d ∧ SameBack (i.place (i.decoded k s.cycleAtDecode.s)) d.s
      ∧ d.res.idStall = none ∧ d.res.redirect = k.redirectsTo s.collab
      ∧ (d.res.redirect.isSome = true → d.s.slots.decode = .bubble) := by
  rw [idStage_free (c := s.cycleAtDecode) hd (by rw [cycleAtDecode_hasResource]; exact hfree),
    decodeAndPlace_clear hk hx, show s.cycleAtDecode.s.collab = s.collab from rfl]
  cases ht : k.redirectsTo s.collab with
  | none =>
    obtain ⟨d, hd, hback, hstall, hredirect⟩ := ifStage_answers
      (c := { s.cycleAtDecode with s := i.place (i.decoded k s.cycleAtDecode.s) })
      fun f hf => ha.slot .fetch ((i.place_frame (i.decoded k s.cycleAtDecode.s)).1.symm.trans hf)
    exact ⟨d, .inl hd, hback, hstall, hredirect, fun h => by rw [hredirect] at h; cases h⟩
  | some target =>
    obtain ⟨d, hd, hback, hstall, hredirect, hbubble⟩ := redirectCycle_answers
      { s.cycleAtDecode with s := i.place (i.decoded k s.cycleAtDecode.s) } target
    exact ⟨d, .inr hd, hback, hstall, hredirect, fun _ => hbubble⟩

/-- The attempt with a hazard (R187, R202). -/
theorem idStage_hazard {x : Stall} (hd : s.slots.decode = .instr i) (hk : i.behaviour = .conforming k)
    (hfree : s.resourceFree i = true) (hx : hazardOf s.regsAtDecode k = some x) :
    idStage ifStage s.cycleAtDecode = stallCycle s.cycleAtDecode x := by
  rw [idStage_free (c := s.cycleAtDecode) hd (by rw [cycleAtDecode_hasResource]; exact hfree)]
  exact decodeAndPlace_hazard hk hx

/-- The stall on a missing resource, before the decode hook (R199, R202). -/
theorem idStage_resourceStall (hd : s.slots.decode = .instr i) (hblocked : s.resourceFree i = false) :
    idStage ifStage s.cycleAtDecode = stallCycle s.cycleAtDecode i.resourceStall :=
  idStage_blocked hd (by rw [cycleAtDecode_hasResource]; exact hblocked)

/-- The ID stage of conforming instructions always answers, and of the register file it at most raises a
semaphore, for a real instruction in `slot[ID]`. -/
theorem idStage_answers (ha : s.AllConform) : ∃ d, Runs (idStage ifStage s.cycleAtDecode) d
    ∧ (d.s.regs = s.regsAtDecode
      ∨ s.slots.decode.real = true ∧ ∃ k, d.s.regs = raisedRegs s.regsAtDecode k) := by
  cases hd : s.slots.decode with
  | empty =>
    obtain ⟨d, h, hback, _⟩ := ifStage_answers (c := s.cycleAtDecode) fun f hf => ha.slot .fetch hf
    refine ⟨d, .inl ?_, .inl hback.regs⟩
    unfold idStage
    rw [show s.cycleAtDecode.s.slots.decode = .empty from hd]
    exact h
  | bubble =>
    unfold idStage
    rw [show s.cycleAtDecode.s.slots.decode = .bubble from hd]
    simp only
    split
    · exact ⟨_, .inr rfl, .inl rfl⟩
    · obtain ⟨d, h, hback, _⟩ := ifStage_answers (c := { s.cycleAtDecode with s := placeBubble s.cycleAtDecode.s })
        fun f hf => ha.slot .fetch hf
      exact ⟨d, .inl h, .inl hback.regs⟩
  | instr i =>
    obtain ⟨k, hk⟩ := ha.slot .decode hd
    cases hfree : s.resourceFree i with
    | false => exact ⟨_, .inr (idStage_resourceStall hd hfree), .inl rfl⟩
    | true =>
      cases hx : hazardOf s.regsAtDecode k with
      | some x => exact ⟨_, .inr (idStage_hazard hd hk hfree hx), .inl rfl⟩
      | none =>
        obtain ⟨d, h, hback, _⟩ := idStage_decodes ha hd hk hfree hx
        exact ⟨d, h, .inr ⟨rfl, k, hback.regs.trans (i.place_frame _).2⟩⟩

end AtDecode

/-- A cycle of conforming instructions is not refused. -/
theorem runCycle_answers {s : State} (ha : s.AllConform) : ∃ d, Runs (runCycle s) d := by
  rcases runCycle_regimes ha with ⟨_, h, k, _, _, hrun⟩ | ⟨_, _, kind, _, hrun⟩ | ⟨_, _, hrun⟩
  · exact ⟨_, .inr hrun⟩
  · exact ⟨_, .inr hrun⟩
  · obtain ⟨d, hd, _⟩ := idStage_answers ha
    exact ⟨d, hrun ▸ hd⟩

end Sys2Proof.Machine

/-! PROOFS. What a cycle of conforming instructions writes back, reports, stalls on, decodes and resolves
(45_pipeline_engine.md, 60_exceptions.md). -/

namespace Sys2Proof.Machine

/-! ### The register file (R9, R29) -/

section Registers

variable (regs : List Reg)

theorem regValue_setRegSem (d n k : Nat) : regValue (setRegSem regs d n) k = regValue regs k := by
  unfold regValue setRegSem
  rw [List.getElem?_modify]
  cases regs[k]? <;> split <;> simp [apply_ite]

theorem regSem_setRegValue (d : Nat) (v : Word) (k : Nat) : regSem (setRegValue regs d v) k = regSem regs k := by
  unfold regSem setRegValue
  split
  · rfl
  · rw [List.getElem?_modify]
    cases regs[k]? <;> simp [apply_ite]

theorem regSem_setRegSem {k : Nat} (d n : Nat) (hk : k < regs.length) :
    regSem (setRegSem regs d n) k = if d = k then n else regSem regs k := by
  unfold regSem setRegSem
  rw [List.getElem?_modify, List.getElem?_eq_getElem hk]
  by_cases hd : d = k <;> simp [hd]

theorem regValue_setRegValue {k : Nat} (d : Nat) (v : Word) (hk : k < regs.length) :
    regValue (setRegValue regs d v) k = if k ≠ 0 ∧ d = k then v else regValue regs k := by
  unfold regValue setRegValue
  by_cases hd : d = 0
  · subst hd
    simp only [if_true]
    split <;> simp_all [eq_comm]
  · rw [if_neg hd, List.getElem?_modify, List.getElem?_eq_getElem hk]
    by_cases hk0 : k = 0
    · simp [hk0]
    · by_cases hdk : d = k <;> simp [hk0, hdk]

theorem regValue_raisedRegs (c : Conforming) (k : Nat) : regValue (raisedRegs regs c) k = regValue regs k := by
  unfold raisedRegs
  split
  · rfl
  · exact regValue_setRegSem regs _ _ k

theorem regValue_writtenRegs {c : Conforming} {k : Nat} (hk : k < regs.length) :
    regValue (writtenRegs regs c) k = if k ≠ 0 ∧ c.dest = some k then c.value else regValue regs k := by
  unfold writtenRegs
  cases hd : c.dest with
  | none => simp
  | some d =>
    simp only [Option.some.injEq]
    rw [regValue_setRegValue _ _ _ (by simpa [setRegSem] using hk), regValue_setRegSem]

theorem regSem_writtenRegs {c : Conforming} {k : Nat} (hk : k < regs.length) :
    regSem (writtenRegs regs c) k = regSem regs k - if c.dest = some k then 1 else 0 := by
  unfold writtenRegs
  cases hd : c.dest with
  | none => simp
  | some d =>
    simp only [Option.some.injEq]
    rw [regSem_setRegValue, regSem_setRegSem regs d _ hk]
    split
    · rename_i h; rw [h]
    · rfl

end Registers

section Conforming

variable {s : State}

/-! ### The cycle completes, and what it writes back (R189, R191) -/

/-- Settles O38: a cycle of conforming instructions is not refused, and every cycle counts itself. -/
theorem peStepCompletes : Obligations.PeStepCompletes := by
  intro s hs ha
  obtain ⟨d, hrun⟩ := runCycle_answers ha
  have hcounted := (runCycle_end hrun).counted
  exact ⟨_, d.res, exec_peStep_runs hs hrun, rfl, hcounted.notRunning, hcounted.cycles⟩

/-- A cycle that does not halt leaves the register file as its writeback made it, but for the semaphore that
a real instruction in `slot[ID]` raises. -/
theorem runCycle_regs (ha : s.AllConform) (hn : s.NotHalting) : ∃ d, Runs (runCycle s) d
    ∧ (d.s.regs = s.regsAtDecode
      ∨ s.slots.decode.real = true ∧ ∃ k, d.s.regs = raisedRegs s.regsAtDecode k) := by
  rcases runCycle_regimes ha with ⟨hh, _⟩ | ⟨_, _, kind, _, hrun⟩ | ⟨_, _, hrun⟩
  · exact absurd hn hh
  · exact ⟨_, .inr hrun, .inl rfl⟩
  · rw [hrun]
    exact idStage_answers ha

theorem halt_of_notHalting {d : Cycle} (hn : s.NotHalting) (o : CycleOutcome s d) : d.res.halt = false :=
  Bool.eq_false_iff.2 fun h => not_retires_of_notHalting hn (o.halts_of_halt h).retires

theorem regsAtDecode_writeback {i : Inst} {c : Conforming} (hw : s.slots.writeback = .instr i)
    (hi : i.isTerminating = false) (hc : i.behaviour = .conforming c) :
    s.regsAtDecode = writtenRegs s.regs c := by
  simp only [State.regsAtDecode, hw, hi, hc, Bool.false_eq_true, if_false]

/-- Settles O39: the writeback's register file is the cycle's, and the cycle retires just `slot[WB]`. -/
theorem peStepWritesBack : Obligations.PeStepWritesBack := by
  intro s i c hs ha hn hw hi hc
  obtain ⟨d, hrun, hregs⟩ := runCycle_regs ha hn
  have o := runCycle_outcome hrun
  rw [regsAtDecode_writeback hw hi hc] at hregs
  refine ⟨_, d.res, exec_peStep_runs hs hrun, rfl, ?_, fun k hk => ?_, fun hd k hk => ?_⟩
  · simpa [State.retired, hw, Slot.terminating, hi, Slot.inst, halt_of_notHalting hn o] using o.retired
  · rw [← regValue_writtenRegs s.regs hk]
    rcases hregs with h | ⟨_, k', h⟩
    · exact congrArg (regValue · k) h
    · exact (congrArg (regValue · k) h).trans (regValue_raisedRegs _ k' k)
  · rw [← regSem_writtenRegs s.regs hk]
    rcases hregs with h | ⟨hreal, _⟩
    · exact congrArg (regSem · k) h
    · rw [hd] at hreal
      cases hreal

/-! ### The synchronous exception (R197, R240) -/

/-- The latch is set exactly by an immediate exception, and a quiet cycle reports nothing. -/
theorem CycleOutcome.sync {d : Cycle} (o : CycleOutcome s d) (ha : s.aborted = false) :
    d.s.aborted = d.res.syncImmediate
    ∧ (d.res.halt = true ∨ s.ExecutesQuietly →
        d.res.masked = none ∧ d.res.sync = none ∧ d.res.syncImmediate = false) := by
  cases o with
  | halts h =>
    rw [h.res, h.aborted, ha]
    exact ⟨rfl, fun _ => ⟨rfl, rfl, rfl⟩⟩
  | cutShort h =>
    obtain ⟨hhalt, _, _, himm, _⟩ := h.res
    refine ⟨h.aborted.trans himm.symm, fun hq => ?_⟩
    exact hq.elim (fun hh => by rw [hhalt] at hh; cases hh) fun hq => absurd hq h.loud
  | full b hb o =>
    obtain ⟨hhalt, _, _, himm, _⟩ := hb.res
    rw [o.aborted, hb.aborted, ha, o.kept.immediate, o.kept.halt, o.kept.masked, o.kept.sync, himm, hhalt]
    refine ⟨rfl, fun hq => ?_⟩
    obtain ⟨hmasked, hsync⟩ := hb.quiet (hq.resolve_left (by simp))
    exact ⟨hmasked, hsync, rfl⟩

/-- A cycle that is not cut short reports the exception as the policy masks or defers it. -/
theorem runCycle_reports (ha : s.AllConform) (hn : s.NotHalting) (hp : s.NotCutShort) :
    ∃ d, Runs (runCycle s) d ∧ KeptRecord s.cycleAtDecode.res d.res := by
  obtain ⟨d, hd, _⟩ := idStage_answers ha
  rw [runCycle_conforming ha hn hp]
  exact ⟨d, hd, (idStage_outcome hd).kept⟩

/-- Settles O46: masked and deferred exceptions only enter the record; an immediate one ends the cycle. -/
theorem peStepSyncPolicy : Obligations.PeStepSyncPolicy := by
  refine ⟨fun s t r hexec hstep => ?_, fun s e c kind hs ha hn he hc hx => ?_⟩
  · obtain ⟨_, habort, d, hrun, rfl, rfl⟩ := stepped_cycle hexec hstep
    exact (runCycle_outcome hrun).sync habort
  have hex : s.exception = some kind := (State.exception_of_executing he hc).trans hx
  by_cases hcut : s.cfg.syncMasked = false ∧ s.cfg.syncTerminate = true
  · obtain ⟨hm, ht⟩ := hcut
    have hrun := exec_peStep_ends hs (runCycle_cutShort ha hn hm ht hex)
    refine ⟨_, _, hrun, rfl, fun h => ?_, fun _ h => ?_, fun _ _ => ?_⟩
    · rw [hm] at h; cases h
    · rw [ht] at h; cases h
    · exact ⟨rfl, rfl, rfl, rfl, rfl, rfl, rfl, rfl, rfl, exec_peStep_aborted hs.1 rfl⟩
  · have hp : s.NotCutShort := by
      by_contra hp
      obtain ⟨hm, ht, _⟩ := exception_of_not_notCutShort ha hp
      exact hcut ⟨hm, ht⟩
    obtain ⟨d, hrun, hkept⟩ := runCycle_reports ha hn hp
    have himm : d.res.syncImmediate = false := hkept.immediate
    have habort := ((runCycle_outcome hrun).sync hs.2).1.trans himm
    have hmasked : d.res.masked = if s.cfg.syncMasked then some kind else none := by
      rw [hkept.masked, ← hex]; rfl
    have hsync : d.res.sync = if s.cfg.syncMasked then none else some kind := by
      rw [hkept.sync, ← hex]; rfl
    refine ⟨_, d.res, exec_peStep_runs hs hrun, rfl, fun hm => ?_, fun hm _ => ?_,
      fun hm ht => absurd ⟨hm, ht⟩ hcut⟩
    · exact ⟨by rw [hmasked, if_pos hm], by rw [hsync, if_pos hm], himm, habort⟩
    · exact ⟨by simp [hmasked, hm], by simp [hsync, hm], himm, habort⟩

/-! ### The ID stage (R199 to R203) -/

/-- A stall ends the cycle with what its ID stage found. -/
theorem exec_peStep_stall {x : Stall} (hs : s.Steps) (h : runCycle s = stallCycle s.cycleAtDecode x) :
    ∃ t r, exec .peStep s = .next t ∧ t.Stepped r ∧ r.idStall = some x
      ∧ r.memStall = s.cycleAtDecode.res.memStall
      ∧ t.regs = s.regsAtDecode ∧ t.pred = s.pred ∧ t.fu = s.trackerAtDecode :=
  ⟨_, _, exec_peStep_ends hs h, rfl, rfl, rfl, rfl, rfl, rfl⟩

/-- Settles O48: the resource is checked before the decode hook, and a bubble's is `slot[EX]`. -/
theorem peStepStructuralStall : Obligations.PeStepStructuralStall := by
  refine fun s hs ha hn hp => ⟨fun i hd hblocked => ?_, fun hd hpeek hreal => ?_⟩
  · obtain ⟨t, r, hexec, hstep, hstall, _, hleft⟩ := exec_peStep_stall hs
      ((runCycle_conforming ha hn hp).trans (idStage_resourceStall hd hblocked))
    refine ⟨t, r, hexec, hstep, hstall.trans ?_, hleft⟩
    unfold Inst.resourceStall
    cases i.fpUnit with
    | none => rfl
    | some u => cases u <;> rfl
  · have hheld : s.heldExecute.real = true := by simpa [State.heldExecute, hpeek] using hreal
    have hrun : idStage ifStage s.cycleAtDecode = stallCycle s.cycleAtDecode .ex := by
      unfold idStage
      rw [show s.cycleAtDecode.s.slots.decode = .bubble from hd]
      exact if_pos hheld
    obtain ⟨t, r, hexec, hstep, hstall, hmem, _⟩ := exec_peStep_stall hs
      ((runCycle_conforming ha hn hp).trans hrun)
    exact ⟨t, r, hexec, hstep, hstall, by simp [hmem, State.cycleAtDecode, hpeek, hreal]⟩

/-- The attempt without a hazard, as PE.STEP answers it. -/
theorem exec_peStep_decodes {i : Inst} {c : Conforming} (hs : s.Steps) (ha : s.AllConform) (hn : s.NotHalting)
    (hp : s.NotCutShort) (hd : s.slots.decode = .instr i) (hc : i.behaviour = .conforming c)
    (hfree : s.resourceFree i = true) (hx : hazardOf s.regsAtDecode c = none) :
    ∃ t r, exec .peStep s = .next t ∧ t.Stepped r ∧ SameBack (i.place (i.decoded c s.cycleAtDecode.s)) t
      ∧ r.idStall = none ∧ r.redirect = c.redirectsTo s.collab
      ∧ (r.redirect.isSome = true → t.slots.decode = .bubble) := by
  obtain ⟨d, hd, hback, hrest⟩ := idStage_decodes ha hd hc hfree hx
  rw [← runCycle_conforming ha hn hp] at hd
  exact ⟨_, d.res, exec_peStep_runs hs hd, rfl,
    ⟨hback.regs, hback.pred, hback.fu, hback.collab, hback.execute⟩, hrest⟩

/-- Where a placement puts the instruction (R201). -/
theorem Inst.place_puts (i : Inst) (u : State) : match i.fpUnit with
    | none => (i.place u).slots.execute = .instr i ∧ (i.place u).fu = u.fu
    | some x => (i.place u).fu = fuAdmit u.params u.fu i x := by
  cases hu : i.fpUnit with
  | none => rw [Inst.place_execute hu]; exact ⟨rfl, rfl⟩
  | some x => rw [Inst.place_unit hu]; rfl

/-- A placement leaves the predictor and the collaborators. -/
theorem Inst.place_pred (i : Inst) (u : State) : (i.place u).pred = u.pred ∧ (i.place u).collab = u.collab := by
  unfold Inst.place
  split <;> exact ⟨rfl, rfl⟩

/-- Settles O49: the hazard is that of the semaphores after the writeback; without one the instruction is
placed. -/
theorem peStepDecodesByHazards : Obligations.PeStepDecodesByHazards := by
  intro s i c hs ha hn hp hd hc hfree
  cases hx : hazardOf s.regsAtDecode c with
  | some x =>
    obtain ⟨t, r, hexec, hstep, hstall, _, hleft⟩ := exec_peStep_stall hs
      ((runCycle_conforming ha hn hp).trans (idStage_hazard hd hc hfree hx))
    exact ⟨t, r, hexec, hstep, hstall, fun _ => hleft, fun h => by cases h⟩
  | none =>
    obtain ⟨t, r, hexec, hstep, hback, hstall, _⟩ := exec_peStep_decodes hs ha hn hp hd hc hfree hx
    refine ⟨t, r, hexec, hstep, hstall, fun h => absurd rfl h, fun _ => ⟨?_, ?_⟩⟩
    · exact hback.regs.trans (i.place_frame _).2
    · have hputs := i.place_puts (i.decoded c s.cycleAtDecode.s)
      cases hu : i.fpUnit with
      | none =>
        rw [hu] at hputs
        exact ⟨hback.execute.trans hputs.1, hback.fu.trans hputs.2⟩
      | some u =>
        rw [hu] at hputs
        exact hback.fu.trans hputs

/-- A listed outcome is consumed (R145, U17). -/
theorem nextOutcome_listed {collab : Collab} {b : Bool} {rest : List Bool} (h : collab.outcomes = b :: rest) :
    (nextOutcome collab).1 = b ∧ (nextOutcome collab).2.outcomes = rest := by
  simp [nextOutcome, h]

/-- Settles O50: the decode hook's redirect and BP.RESOLVE, kind by kind. -/
theorem peStepControlFlow : Obligations.PeStepControlFlow := by
  intro s i c hs ha hn hp hd hc hfree hx
  obtain ⟨t, r, hexec, hstep, hback, _, hredirect, hbubble⟩ := exec_peStep_decodes hs ha hn hp hd hc hfree hx
  obtain ⟨hplacePred, hplaceCollab⟩ := i.place_pred (i.decoded c s.cycleAtDecode.s)
  have hpred : t.pred = (i.decoded c s.cycleAtDecode.s).pred := hback.pred.trans hplacePred
  have hcollab : t.collab = (i.decoded c s.cycleAtDecode.s).collab := hback.collab.trans hplaceCollab
  refine ⟨t, r, hexec, hstep, fun hk => ?_, fun uses target hk => ?_, fun uses target hk => ?_⟩
  · refine ⟨by rw [hredirect, Conforming.redirectsTo, hk], ?_⟩
    rw [hpred, Inst.decoded, hk]
    rfl
  · have hto : r.redirect = some target := by rw [hredirect, Conforming.redirectsTo, hk]
    refine ⟨hto, hbubble (by rw [hto]; rfl), ?_⟩
    rw [hpred, Inst.decoded, Conforming.taken, hk]
    rfl
  · have htaken : c.taken s.collab = (nextOutcome s.collab).1 := by rw [Conforming.taken, hk]
    have hto : r.redirect = if c.taken s.collab then some target else none := by
      rw [hredirect, Conforming.redirectsTo, hk]
    refine ⟨c.taken s.collab, fun b rest hlisted => ?_, hto, fun h => hbubble (by simp [hto, h]), ?_⟩
    · obtain ⟨hfirst, hrest⟩ := nextOutcome_listed hlisted
      refine ⟨htaken.trans hfirst, ?_⟩
      rw [hcollab, Inst.decoded, hk]
      exact hrest
    · rw [hpred, Inst.decoded, hk]
      rfl

end Conforming

end Sys2Proof.Machine

/-! PROOFS. The draining of a STOPPING engine whose instructions conform (R193, R209, R273). -/

namespace Sys2Proof.Machine

/-! ### The empty tracker -/

theorem trackerEmpty_iff_contents {t : Tracker} :
    trackerEmpty t = true ↔ ∀ o ∈ t.contents, o = none := by
  simp only [trackerEmpty_iff, Tracker.contents, List.forall_mem_cons, and_comm]

theorem fuPeek_of_trackerEmpty {t : Tracker} (h : trackerEmpty t = true) : fuPeek t = none := by
  rw [Option.eq_none_iff_forall_ne_some]
  intro f hf
  cases trackerEmpty_iff_contents.1 h _ (fuPeek_mem hf)

theorem trackerAtDecode_empty {s : State} (h : trackerEmpty s.fu = true) :
    trackerEmpty s.trackerAtDecode = true :=
  trackerEmpty_iff_contents.2 fun o ho =>
    (mem_contents_trackerAtDecode ho).elim id (trackerEmpty_iff_contents.1 h o)

section Draining

variable {s t : State}

/-- Every place in front of the tracker, and the tracker, holds a conforming instruction or none. -/
theorem allConform_iff : s.AllConform
    ↔ (∀ o ∈ [s.slots.fetch.inst, s.slots.decode.inst, s.slots.execute.inst, s.slots.memory.inst,
          s.slots.writeback.inst, s.term], o.all Inst.conforms = true)
      ∧ ∀ o ∈ s.fu.contents, o.all Inst.conforms = true := by
  rw [← List.forall_mem_append]
  rfl

/-- A STOPPING engine that drains: nothing real in `slot[ID]`, the tracker empty, and conforming instructions
elsewhere. -/
structure Draining (s : State) : Prop where
  status : s.status = .stopping
  aborted : s.aborted = false
  conform : s.AllConform
  decode : s.slots.decode.real = false
  empty : trackerEmpty s.fu = true

theorem Draining.steps (h : Draining s) : s.Steps := ⟨by rw [h.status]; rfl, h.aborted⟩

/-- What a cycle of a draining engine moves, counts and leaves (R194, R195, R206). -/
structure Drains (s t : State) : Prop where
  draining : Draining t
  execute : t.slots.execute.real = false
  memory : t.slots.memory = s.slots.execute
  writeback : t.slots.writeback = s.slots.memory
  cycles : t.cnt.cycles = s.cnt.cycles + 1
  trace : t.trace = s.trace

/-- The instructions after a cycle that fetched nothing and drained are some of those before it. -/
theorem Draining.conform_of_drained (h : Draining s) (hfetch : t.slots.fetch = s.slots.fetch)
    (hdecode : t.slots.decode.real = false) (hexecute : t.slots.execute.real = false)
    (hmemory : t.slots.memory = s.slots.execute) (hwriteback : t.slots.writeback = s.slots.memory)
    (hterm : t.term = s.nextTerm) (hempty : trackerEmpty t.fu = true) : t.AllConform := by
  obtain ⟨hslots, _⟩ := allConform_iff.1 h.conform
  have hnext : s.nextTerm.all Inst.conforms = true := by
    cases hn : s.nextTerm with
    | none => rfl
    | some i => exact Inst.conforms_iff.2 (h.conform.nextTerm hn)
  refine allConform_iff.2 ⟨?_, fun o ho => by rw [trackerEmpty_iff_contents.1 hempty o ho]; rfl⟩
  rw [hfetch, hmemory, hwriteback, hterm, Slot.inst_of_not_real hdecode, Slot.inst_of_not_real hexecute]
  simp only [List.forall_mem_cons] at hslots ⊢
  obtain ⟨hf, _, he, hm, _⟩ := hslots
  exact ⟨hf, rfl, rfl, he, hm, hnext, List.forall_mem_nil _⟩

/-- One cycle of a draining engine that neither halts nor is cut short. -/
theorem Draining.cycle (h : Draining s) (hn : s.NotHalting) (hp : s.NotCutShort) :
    ∃ t, exec .peStep s = .next t ∧ Drains s t := by
  obtain ⟨d, hrun, hkept⟩ := runCycle_reports h.conform hn hp
  have hpeek := fuPeek_of_trackerEmpty h.empty
  have hend := runCycle_end hrun
  have hcycles := hend.counted.cycles
  cases hend with
  | halts o _ => exact absurd o.retires (not_retires_of_notHalting hn)
  | cutShort o _ =>
    obtain ⟨_, _, _, himm, _⟩ := o.res
    exact absurd (hkept.immediate.symm.trans himm) (by simp [State.cycleAtDecode, StepResult.init])
  | full b hb early o e =>
    have hstopped : b.s.status = .stopping := hb.status.trans h.status
    obtain ⟨_, hexecute, hdecode, hfu, hstatus⟩ := o.of_idle (hb.decode ▸ h.decode) (by simp [hstopped])
    obtain ⟨hmemory, hwriteback, hterm, haborted⟩ := hb.behind o
    have hnext : s.nextMemory = s.slots.execute := by simp only [State.nextMemory, hpeek]
    have hheld : s.heldExecute.real = false := by simp [State.heldExecute, hpeek, Slot.real]
    rw [hstopped] at hstatus
    rw [hnext] at hmemory
    rw [hb.execute, hheld] at hexecute
    have hempty : trackerEmpty d.s.fu = true := by
      rw [hfu, hb.fu]
      exact trackerAtDecode_empty h.empty
    cases e.front hb early with
    | fetched running _ _ _ => rw [hstatus] at running; cases running
    | unfetched _ trace _ hfetch =>
      have hconform := h.conform_of_drained hfetch hdecode hexecute hmemory hwriteback hterm hempty
      exact ⟨_, exec_peStep_runs h.steps hrun,
        ⟨hstatus, haborted.trans h.aborted, hconform, hdecode, hempty⟩, hexecute, hmemory, hwriteback, hcycles,
        trace⟩

/-- With the tracker empty and nothing real in `slot[EX]` no exception is reported. -/
theorem Draining.notCutShort (h : Draining s) (he : s.slots.execute.real = false) : s.NotCutShort := by
  simp [State.NotCutShort, State.executing, fuPeek_of_trackerEmpty h.empty, Slot.inst_of_not_real he]

/-- The cycle of a draining engine that finds the terminating instruction in `slot[WB]` and nothing real in
`slot[MEM]`. -/
theorem Draining.halts {h : Inst} (hd : Draining s) (hw : s.slots.writeback = .instr h)
    (hh : h.isTerminating = true) (hm : s.slots.memory.real = false) :
    ∃ t, exec .peStep s = .next t ∧ t.status = .halted ∧ t.cnt.cycles = s.cnt.cycles + 1
      ∧ t.trace = s.trace := by
  obtain ⟨k, hk⟩ := hd.conform.slot .writeback hw
  have hterm : s.nextTerm = some h := by simp [State.nextTerm, hw, Slot.terminating, hh, Slot.inst]
  have hrun := runCycle_halts (fun i hi => hd.conform.slot .writeback hi) hterm hk hd.empty hm
  exact ⟨_, exec_peStep_ends hd.steps hrun, rfl, rfl, rfl⟩

end Draining

/-- Settles O60: two draining cycles carry the instruction to `slot[WB]`, the third retires it. -/
theorem haltsThreeStepsAfterPlacement : Obligations.HaltsThreeStepsAfterPlacement := by
  intro s h hstatus haborted hconform hp hn hexecute hh hdecode hempty
  obtain ⟨t₁, hexec₁, h₁⟩ := Draining.cycle ⟨hstatus, haborted, hconform, hdecode, hempty⟩ hn hp
  have hmemory : t₁.slots.memory = .instr h := h₁.memory.trans hexecute
  obtain ⟨t₂, hexec₂, h₂⟩ := h₁.draining.cycle (.inr (.inr (by rw [hmemory]; rfl)))
    (h₁.draining.notCutShort h₁.execute)
  obtain ⟨t₃, hexec₃, hhalted, hcycles, htrace⟩ := h₂.draining.halts (h₂.writeback.trans hmemory) hh
    (by rw [h₂.memory]; exact h₁.execute)
  refine ⟨t₁, t₂, t₃, hexec₁, hexec₂, hexec₃, h₁.draining.status, h₂.draining.status, hhalted, ?_, ?_⟩
  · rw [hcycles, h₂.cycles, h₁.cycles]
  · rw [htrace, h₂.trace, h₁.trace]

end Sys2Proof.Machine

/-! PROOFS. Hook results outside the contract (R243, 60_exceptions.md): each hook that a cycle reaches answers
within its contract, or its stage breaks off and the step is refused. -/

namespace Sys2Proof.Machine

/-! ### The hooks of an instruction of which only the contract is known (R186 to R190) -/

section Hooks

variable {i : Inst} {u : State}

theorem callHook_oracle (h : HookName) (hi : i.behaviour = .oracle) (u : State) :
    callHook h i u = oracleAnswer h i u := by
  simp only [callHook, hi, oracleAnswer]

theorem runOkHook_contract (h : HookName) (hi : i.behaviour = .oracle) :
    (oracleAnswer h i u).result = .ok ∨ runOkHook h i u = none := by
  cases ht : runOkHook h i u with
  | none => exact .inr rfl
  | some t => exact .inl (callHook_oracle h hi u ▸ (runOkHook_cases ht).1)

theorem runExecuteHook_contract (hi : i.behaviour = .oracle) :
    (oracleAnswer .execute i u).result = .ok
    ∨ (∃ kind, (oracleAnswer .execute i u).result = .syncException kind) ∨ runExecuteHook i u = none := by
  cases ht : runExecuteHook i u with
  | none => exact .inr (.inr rfl)
  | some a =>
    obtain ⟨kind, t⟩ := a
    have hresult := callHook_oracle .execute hi u ▸ (runExecuteHook_cases ht).2
    cases kind with
    | none => exact .inl hresult
    | some kind => exact .inr (.inl ⟨kind, hresult⟩)

theorem runFetchHook_contract (hi : i.behaviour = .oracle) :
    (oracleAnswer .fetch i u).result = .ok ∨ (oracleAnswer .fetch i u).result = .breakpoint
    ∨ runFetchHook i u = none := by
  cases ht : runFetchHook i u with
  | none => exact .inr (.inr rfl)
  | some a =>
    obtain ⟨brk, i', t⟩ := a
    obtain ⟨_, _, hresult⟩ := runFetchHook_cases ht
    rw [callHook_oracle .fetch hi u] at hresult
    cases brk with
    | false => exact .inl hresult
    | true => exact .inr (.inl hresult)

/-- A hazard is an answer only when the hook changed neither the register file nor the predictor (U11). -/
theorem hazardAnswer_contract {out : HookOut} (k : Stall) (h : out.result = .rawHazard ∨ out.result = .wawHazard) :
    out.cleanHazard u ∨ hazardAnswer u out k = none := by
  by_cases hclean : (applyHook u out).regs = u.regs ∧ (applyHook u out).pred = u.pred
  · exact .inl ⟨h, hclean⟩
  · exact .inr (if_neg hclean)

theorem runDecodeHook_contract (hi : i.behaviour = .oracle) :
    (oracleAnswer .decode i u).result = .ok
    ∨ (∃ target, (oracleAnswer .decode i u).result = .redirect target)
    ∨ (oracleAnswer .decode i u).cleanHazard u ∨ runDecodeHook i u = none := by
  simp only [runDecodeHook, callHook_oracle .decode hi u]
  cases hr : (oracleAnswer .decode i u).result with
  | ok => exact .inl rfl
  | redirect target => exact .inr (.inl ⟨target, rfl⟩)
  | rawHazard => exact .inr (.inr (hazardAnswer_contract .raw (.inl hr)))
  | wawHazard => exact .inr (.inr (hazardAnswer_contract .waw (.inr hr)))
  | _ => exact .inr (.inr (.inr rfl))

end Hooks

/-! ### A stage whose hook breaks its contract -/

section Stages

variable {i : Inst} {c : Cycle}

theorem consumeWriteback_breach {s : State} (hw : s.slots.writeback = .instr i) (hi : i.isTerminating = false)
    (h : runOkHook .writeback i { s with slots := { s.slots with writeback := .empty } } = none) :
    consumeWriteback s = none := by
  simp only [consumeWriteback, hw, hi, Bool.false_eq_true, if_false, h, Option.map_none]

theorem retireTerminating_breach (ht : c.s.term = some i) (he : trackerEmpty c.s.fu = true)
    (hm : c.s.slots.memory.real = false) (h : runOkHook .writeback i c.s = none) :
    retireTerminating c = .breach := by
  simp only [retireTerminating, ht, he, hm, h, Bool.not_false, Bool.and_self, if_true]

theorem memStage_breach (hm : c.s.slots.memory = .instr i) (h : runOkHook .accessMemory i c.s = none) :
    memStage c = .breach := by
  simp only [memStage, hm, h]

/-- What executes is the ready FP instruction, else the one in `slot[EX]` (R195). -/
theorem State.executing_eq_some {s : State} (h : s.executing = some i) :
    fuPeek s.fu = some i ∨ fuPeek s.fu = none ∧ s.slots.execute = .instr i := by
  unfold State.executing at h
  split at h
  · cases h
    exact .inl (by assumption)
  · refine .inr ⟨by assumption, ?_⟩
    cases hs : s.slots.execute <;> rw [hs] at h <;> cases h
    rfl

theorem exStage_breach (he : c.s.executing = some i) (h : runExecuteHook i c.s = none) :
    exStage c = .breach := by
  have hexec : executeInst i c = .breach := by simp only [executeInst, h]
  rcases State.executing_eq_some he with hp | ⟨hp, hs⟩
  · simp only [exStage, hp, hexec, Flow.andThen]
  · simp only [exStage, hp, hs, hexec, Flow.andThen]

theorem decodeAndPlace_breach {place : State → State} {next : NextStage} (h : runDecodeHook i c.s = none) :
    decodeAndPlace i place next c = .breach := by
  simp only [decodeAndPlace, h]

theorem ifStage_breach (hr : c.s.status = .running) (hf : c.s.slots.fetch = .instr i)
    (h : runFetchHook i c.s = none) : ifStage c = .breach := by
  simp only [ifStage, hr, hf, h, if_true]

/-- The ID stage hands on what it hands to any other next stage (R204). -/
theorem decodeAndPlace_andThen (i : Inst) (place : State → State) (next : NextStage) (c : Cycle) :
    decodeAndPlace i place next c = (decodeAndPlace i place .go c).andThen next := by
  unfold decodeAndPlace
  cases runDecodeHook i c.s with
  | none => rfl
  | some a => obtain ⟨answer, t⟩ := a; cases answer <;> rfl

theorem idStage_andThen (next : NextStage) (c : Cycle) :
    idStage next c = (idStage .go c).andThen next := by
  unfold idStage
  cases c.s.slots.decode with
  | empty => rfl
  | bubble => dsimp only; split <;> rfl
  | instr i =>
    dsimp only
    cases i.fpUnit with
    | some u =>
      simp only [decodeFp]
      split
      · exact decodeAndPlace_andThen _ _ _ _
      · rfl
    | none =>
      simp only [decodeInt]
      split
      · rfl
      · exact decodeAndPlace_andThen _ _ _ _

end Stages

/-! ### The cycle stage by stage (R191) -/

section Cycle

variable {s : State} {c : Cycle}

theorem runCycle_atDecode (s : State) : runCycle s = s.atDecode.andThen (idStage ifStage) := rfl

theorem Flow.andThen_assoc (f : Flow) (k l : Cycle → Flow) :
    (f.andThen k).andThen l = f.andThen fun c => (k c).andThen l := by
  cases f <;> rfl

theorem runCycle_atFetch (s : State) : runCycle s = s.atFetch.andThen ifStage := by
  rw [runCycle_atDecode, State.atFetch, Flow.andThen_assoc]
  exact congrArg s.atDecode.andThen (funext fun c => idStage_andThen ifStage c)

theorem reached_of_atDecode (h : s.atDecode = .go c) : Reached s c := by
  obtain ⟨d₂, h₂, h₃⟩ := Flow.andThen_go.1 h
  obtain ⟨d₁, h₁, h₂⟩ := Flow.andThen_go.1 h₂
  have hc : Consumed s d₁ := by
    rcases wbStage_outcome h₁ with h | ⟨_, h, m⟩ | ⟨_, h, m⟩ <;> cases h
    exact m
  rcases exStage_outcome (memStage_outcome hc h₂) h₃ with h | ⟨_, h, m⟩ | ⟨_, h, m⟩ <;> cases h
  exact m

theorem Reached.hasResource (h : Reached s c) (i : Inst) : i.hasResource c.s = s.resourceFree i := by
  unfold State.resourceFree
  cases hu : i.fpUnit with
  | some u => rw [Inst.hasResource_unit hu, h.fu]
  | none =>
    rw [Inst.hasResource_execute hu, h.execute, State.heldExecute]
    cases fuPeek s.fu <;> rfl

theorem runCycle_breach_of_atMemory (h : s.atMemory = .breach) : runCycle s = .breach := by
  rw [runCycle_atDecode, State.atDecode, State.atExecute, h]
  rfl

theorem runCycle_breach_of_memStage (h : s.atMemory = .go c) (hm : memStage c = .breach) :
    runCycle s = .breach := by
  simp only [runCycle_atDecode, State.atDecode, State.atExecute, h, Flow.andThen, hm]

theorem runCycle_breach_of_exStage (h : s.atExecute = .go c) (he : exStage c = .breach) :
    runCycle s = .breach := by
  simp only [runCycle_atDecode, State.atDecode, h, Flow.andThen, he]

theorem runCycle_of_atDecode (h : s.atDecode = .go c) : runCycle s = idStage ifStage c := by
  rw [runCycle_atDecode, h]
  rfl

theorem runCycle_of_atFetch (h : s.atFetch = .go c) : runCycle s = ifStage c := by
  rw [runCycle_atFetch, h]
  rfl

end Cycle

/-- Settles O52: the contract of each hook, and the stage that breaks off without it. -/
theorem peStepRefusesBreaches : Obligations.PeStepRefusesBreaches := by
  intro s i hs hi
  refine ⟨fun hw hterm => ?_, fun w hw hterm hempty hm => ?_, fun c hc hm => ?_, fun c hc he => ?_,
    fun c hc hd hfree => ?_, fun c hc hr hf => ?_⟩
  · refine (runOkHook_contract (u := { (beginCycle s).s with slots := { s.slots with writeback := .empty } })
      .writeback hi).imp_right fun h => exec_peStep_breach hs (runCycle_breach_of_atMemory ?_)
    simp only [State.atMemory, wbStage, consumeWriteback_breach (s := (beginCycle s).s) hw hterm h]
  · obtain ⟨_, hslots, hfu, _⟩ := consumeWriteback_started hw
    refine (runOkHook_contract .writeback hi).imp_right fun h => ?_
    refine exec_peStep_breach hs (runCycle_breach_of_atMemory ?_)
    simp only [State.atMemory, wbStage, hw]
    exact retireTerminating_breach hterm (hfu ▸ hempty) (by rw [hslots]; exact hm) h
  · refine (runOkHook_contract .accessMemory hi).imp_right fun h => ?_
    exact exec_peStep_breach hs (runCycle_breach_of_memStage hc (memStage_breach hm h))
  · refine (runExecuteHook_contract hi).imp_right (Or.imp_right fun h => ?_)
    exact exec_peStep_breach hs (runCycle_breach_of_exStage hc (exStage_breach he h))
  · refine (runDecodeHook_contract hi).imp_right (Or.imp_right (Or.imp_right fun h => ?_))
    have hresource := ((reached_of_atDecode hc).hasResource i).trans hfree
    refine exec_peStep_breach hs ((runCycle_of_atDecode hc).trans ?_)
    exact (idStage_free hd hresource).trans (decodeAndPlace_breach h)
  · refine (runFetchHook_contract hi).imp_right (Or.imp_right fun h => ?_)
    exact exec_peStep_breach hs ((runCycle_of_atFetch hc).trans (ifStage_breach hr hf h))

end Sys2Proof.Machine

/-! PROOFS. A prediction steers nothing (R145, D14): what a cycle of conforming instructions does, seen without
the predictor and the predictions kept, it does to the state seen without them. -/

namespace Sys2Proof.Machine

/-! ### Instructions, slots and stages without their predictions -/

theorem Inst.forget_forget (i : Inst) : i.forget.forget = i.forget := rfl

@[simp] theorem optionMap_forget_forget (o : Option Inst) :
    (o.map Inst.forget).map Inst.forget = o.map Inst.forget := by
  cases o <;> rfl

@[simp] theorem Slot.forget_forget (x : Slot) : x.forget.forget = x.forget := by cases x <;> rfl

@[simp] theorem Slot.real_forget (x : Slot) : x.forget.real = x.real := by cases x <;> rfl

@[simp] theorem Slot.terminating_forget (x : Slot) : x.forget.terminating = x.terminating := by cases x <;> rfl

@[simp] theorem Slot.retires_forget (x : Slot) : x.forget.retires = x.retires := by simp [Slot.retires]

@[simp] theorem Slot.inst_forget (x : Slot) : x.forget.inst = x.inst.map Inst.forget := by cases x <;> rfl

/-- The stages of a unit without the predictions. -/
abbrev forgetStages (l : List (Option Inst)) : List (Option Inst) := l.map (Option.map Inst.forget)

/-- The tracker without the predictions. -/
def Tracker.forget (t : Tracker) : Tracker :=
  { add := forgetStages t.add, mul := forgetStages t.mul, div := t.div.map Inst.forget, divRem := t.divRem }

@[simp] theorem forgetStages_forgetStages (l : List (Option Inst)) :
    forgetStages (forgetStages l) = forgetStages l := by
  rw [forgetStages, List.map_map]
  exact congrArg (List.map · l) (funext optionMap_forget_forget)

@[simp] theorem Tracker.forget_forget (t : Tracker) : t.forget.forget = t.forget := by
  simp only [Tracker.forget, forgetStages_forgetStages, optionMap_forget_forget]

section Stages

variable (l : List (Option Inst))

@[simp] theorem finalStage_forget : finalStage (forgetStages l) = (finalStage l).map Inst.forget := by
  unfold finalStage
  rw [List.getLast?_map]
  cases l.getLast? <;> rfl

@[simp] theorem inputStage_forget : inputStage (forgetStages l) = (inputStage l).map Inst.forget := by
  unfold inputStage
  rw [List.head?_map]
  cases l.head? <;> rfl

theorem advanceStages_forget : advanceStages (forgetStages l) = forgetStages (advanceStages l) := by
  unfold advanceStages
  rw [finalStage_forget, Option.isNone_map]
  split
  · simp [forgetStages, List.map_take]
  · rfl

theorem clearFinal_forget : clearFinal (forgetStages l) = forgetStages (clearFinal l) := by
  simp [clearFinal, forgetStages, List.map_set]

theorem setInput_forget (i : Inst) : setInput (forgetStages l) i.forget = forgetStages (setInput l i) := by
  simp [setInput, forgetStages, List.map_set]

end Stages

/-! ### The tracker without the predictions -/

section Tracker

variable (t : Tracker)

@[simp] theorem canAdmit_forget (u : FUnit) : canAdmit t.forget u = canAdmit t u := by
  cases u <;> simp [canAdmit, Tracker.forget]

@[simp] theorem trackerEmpty_forget : trackerEmpty t.forget = trackerEmpty t := by
  simp [trackerEmpty, Tracker.forget, Function.comp_def]

theorem unitReady_forget (u : FUnit) : unitReady t.forget u = unitReady t u := by
  cases u <;> simp [unitReady, Tracker.forget]

theorem exitUnit_forget : exitUnit t.forget = exitUnit t := by simp only [exitUnit, unitReady_forget]

@[simp] theorem fuPeek_forget : fuPeek t.forget = (fuPeek t).map Inst.forget := by
  unfold fuPeek
  rw [exitUnit_forget]
  cases exitUnit t with
  | none => rfl
  | some u => cases u <;> simp [Tracker.forget]

theorem fuExit_forget : fuExit t.forget = (fuExit t).forget := by
  unfold fuExit
  rw [exitUnit_forget]
  cases exitUnit t with
  | none => rfl
  | some u => cases u <;> simp [Tracker.forget, clearFinal_forget]

theorem fuAdvance_forget : fuAdvance t.forget = (fuAdvance t).forget := by
  simp [fuAdvance, Tracker.forget, advanceStages_forget]

theorem fuAdmit_forget (p : Params) (i : Inst) (u : FUnit) :
    fuAdmit p t.forget i.forget u = (fuAdmit p t i u).forget := by
  cases u <;> simp [fuAdmit, Tracker.forget, setInput_forget]

end Tracker

/-! ### The state without the predictions -/

section State

variable (s : State)

@[simp] theorem forget_fu : s.forget.fu = s.fu.forget := rfl

@[simp] theorem State.forget_forget : s.forget.forget = s.forget := by
  have hfu : s.forget.forget.fu = s.forget.fu := s.fu.forget_forget
  have hslots : s.forget.forget.slots = s.forget.slots := by simp [State.forget]
  have hterm : s.forget.forget.term = s.forget.term := optionMap_forget_forget s.term
  calc s.forget.forget = { s.forget with
        fu := s.forget.forget.fu, slots := s.forget.forget.slots, term := s.forget.forget.term } := rfl
    _ = s.forget := by rw [hfu, hslots, hterm]

@[simp] theorem executing_forget : s.forget.executing = s.executing.map Inst.forget := by
  unfold State.executing
  rw [forget_fu, fuPeek_forget]
  cases fuPeek s.fu with
  | none => exact Slot.inst_forget _
  | some f => rfl

@[simp] theorem exception_forget : s.forget.exception = s.exception := by
  unfold State.exception
  rw [executing_forget]
  cases s.executing <;> rfl

@[simp] theorem nextTerm_forget : s.forget.nextTerm = s.nextTerm.map Inst.forget := by
  unfold State.nextTerm
  rw [show s.forget.slots.writeback = s.slots.writeback.forget from rfl, Slot.terminating_forget, Slot.inst_forget]
  split <;> rfl

theorem regsAtDecode_forget : s.forget.regsAtDecode = s.regsAtDecode := by
  unfold State.regsAtDecode
  rw [show s.forget.slots.writeback = s.slots.writeback.forget from rfl]
  cases s.slots.writeback <;> rfl

theorem heldExecute_forget : s.forget.heldExecute = s.heldExecute.forget := by
  unfold State.heldExecute
  rw [forget_fu, fuPeek_forget, Option.isSome_map]
  split <;> rfl

theorem nextMemory_forget : s.forget.nextMemory = s.nextMemory.forget := by
  unfold State.nextMemory
  rw [forget_fu, fuPeek_forget]
  cases fuPeek s.fu <;> rfl

theorem trackerAtDecode_forget : s.forget.trackerAtDecode = s.trackerAtDecode.forget := by
  simp only [State.trackerAtDecode, forget_fu, fuExit_forget, fuAdvance_forget]

theorem notHalting_forget : s.forget.NotHalting ↔ s.NotHalting := by
  rw [State.NotHalting, State.NotHalting, forget_fu, trackerEmpty_forget,
    show s.forget.term = s.term.map Inst.forget from rfl,
    show s.forget.slots.writeback = s.slots.writeback.forget from rfl,
    show s.forget.slots.memory = s.slots.memory.forget from rfl, Slot.terminating_forget, Slot.real_forget,
    Option.map_eq_none_iff]

theorem notCutShort_forget : s.forget.NotCutShort ↔ s.NotCutShort := by
  have hexcepts : s.forget.executing.any Inst.excepts = s.executing.any Inst.excepts := by
    rw [executing_forget]
    cases s.executing <;> rfl
  rw [State.NotCutShort, State.NotCutShort, hexcepts]
  rfl

theorem places_forget : s.forget.places = s.places.map (Option.map Inst.forget) := by
  simp [State.places, State.forget]

theorem allConform_forget : s.forget.AllConform ↔ s.AllConform := by
  rw [State.AllConform, State.AllConform, places_forget, List.forall_mem_map]
  exact forall₂_congr fun o _ => by cases o <;> rfl

end State

end Sys2Proof.Machine

/-! PROOFS. The stages of a cycle of conforming instructions, seen without the predictor and the predictions
kept (R145, D14). -/

namespace Sys2Proof.Machine

/-- The step so far without everything that is a prediction. -/
def Cycle.forget (c : Cycle) : Cycle := { s := c.s.forget, res := c.res }

/-- Where a stage leaves the step, without everything that is a prediction. -/
def Flow.forget : Flow → Flow
  | .go c => .go c.forget
  | .ends c => .ends c.forget
  | .breach => .breach

@[simp] theorem Cycle.forget_forget (c : Cycle) : c.forget.forget = c.forget := by
  simp only [Cycle.forget, State.forget_forget]

@[simp] theorem Flow.forget_forget (f : Flow) : f.forget.forget = f.forget := by
  cases f <;> simp only [Flow.forget, Cycle.forget_forget]

/-! ### Stages that read no prediction -/

section Stages

variable (s : State) (c : Cycle)

theorem haltedCycle_forget (k : Conforming) : s.forget.haltedCycle k = (s.haltedCycle k).forget := by
  simp only [State.haltedCycle, regsAtDecode_forget,
    show s.forget.slots.writeback = s.slots.writeback.forget from rfl, Slot.retires_forget]
  rfl

/-- What the first half of the WB stage leaves, field by field. -/
theorem afterWriteback_eq : afterWriteback s = { s with
    slots := { s.slots with writeback := .empty }
    regs := s.regsAtDecode
    term := s.nextTerm
    cnt := { s.cnt with instructions := s.cnt.instructions + s.slots.writeback.retires.toNat } } := rfl

theorem afterWriteback_forget : afterWriteback s.forget = (afterWriteback s).forget := by
  rw [afterWriteback_eq, afterWriteback_eq, regsAtDecode_forget, nextTerm_forget,
    show s.forget.slots.writeback = s.slots.writeback.forget from rfl, Slot.retires_forget]
  rfl

theorem cycleAtExecute_forget : s.forget.cycleAtExecute = s.cycleAtExecute.forget := by
  have hstate : afterWriteback (beginCycle s.forget).s = (afterWriteback (beginCycle s).s).forget :=
    afterWriteback_forget (beginCycle s).s
  simp only [State.cycleAtExecute, hstate]
  rfl

theorem cutCycle_forget (kind : Nat) : s.forget.cutCycle kind = (s.cutCycle kind).forget := by
  simp only [State.cutCycle, cycleAtExecute_forget]
  rfl

theorem cycleAtDecode_forget : s.forget.cycleAtDecode = s.cycleAtDecode.forget := by
  simp only [State.cycleAtDecode, cycleAtExecute_forget, trackerAtDecode_forget, heldExecute_forget,
    nextMemory_forget, exception_forget, forget_fu, fuPeek_forget, Option.isSome_map,
    show s.forget.slots.writeback = s.slots.writeback.forget from rfl, Slot.retires_forget,
    show s.forget.slots.execute = s.slots.execute.forget from rfl, Slot.real_forget]
  rfl

theorem stallCycle_forget (k : Stall) : stallCycle c.forget k = (stallCycle c k).forget := by
  cases hx : c.s.slots.execute <;>
    simp only [stallCycle, hx, show c.forget.s.slots.execute = c.s.slots.execute.forget from rfl, Slot.forget] <;>
    rfl

theorem redirectCycle_forget (target : Addr) :
    redirectCycle c.forget target = (redirectCycle c target).forget := by
  have hstatus : c.forget.s.status = c.s.status := rfl
  by_cases hr : c.s.status = .running
  · simp only [redirectCycle, hstatus, hr, if_true]; rfl
  · simp only [redirectCycle, hstatus, hr, if_false]; rfl

theorem place_forget (i : Inst) : i.forget.place s.forget = (i.place s).forget := by
  cases hu : i.fpUnit with
  | none => rw [Inst.place_execute hu, Inst.place_execute (i := i.forget) hu]; rfl
  | some u =>
    rw [Inst.place_unit hu, Inst.place_unit (i := i.forget) hu]
    simp only [placeInUnit, forget_fu, show s.forget.params = s.params from rfl, fuAdmit_forget]
    rfl

end Stages

/-! ### The IF and ID stages -/

section Front

variable {c c' : Cycle} {i : Inst} {k : Conforming}

/-- IF stage of a RUNNING engine with the conforming instruction `i` in `slot[IF]`, without the prediction that
the fetch hook keeps. -/
theorem ifStage_forget_of_running (hr : c.s.status = .running) (hf : c.s.slots.fetch = .instr i)
    (hk : i.behaviour = .conforming k) :
    (ifStage c).forget = .go { s := advanceFetch (.instr i.forget) c.forget.s
                               res := { c.res with breakpoint := c.res.breakpoint || k.breakpoint } } := by
  have hpredicted : (i.predicted k c.s.params c.s.pred).forget = i.forget := by
    unfold Inst.predicted
    split <;> rfl
  rw [ifStage_conforming hr hf hk, ← hpredicted]
  rfl

theorem ifStage_of_not_real (hr : c.s.status = .running) (hf : c.s.slots.fetch.real = false) :
    ifStage c = .go { c with s := advanceFetch c.s.slots.fetch c.s } := by
  cases hs : c.s.slots.fetch with
  | empty => simp only [ifStage, hr, hs, if_true]
  | bubble => simp only [ifStage, hr, hs, if_true]
  | instr f => rw [hs] at hf; cases hf

theorem ifStage_forget (hf : ∀ f, c.s.slots.fetch = .instr f → ∃ k, f.behaviour = .conforming k) :
    (ifStage c.forget).forget = (ifStage c).forget := by
  by_cases hr : c.s.status = .running
  · cases hreal : c.s.slots.fetch.real with
    | false =>
      rw [ifStage_of_not_real hr hreal,
        ifStage_of_not_real (c := c.forget) hr (c.s.slots.fetch.real_forget.trans hreal)]
      exact Flow.forget_forget (.go { c with s := advanceFetch c.s.slots.fetch c.s })
    | true =>
      cases hs : c.s.slots.fetch with
      | empty => rw [hs] at hreal; cases hreal
      | bubble => rw [hs] at hreal; cases hreal
      | instr f =>
        obtain ⟨k, hk⟩ := hf f hs
        have hs' : c.forget.s.slots.fetch = .instr f.forget := congrArg Slot.forget hs
        rw [ifStage_forget_of_running hr hs hk, ifStage_forget_of_running (c := c.forget) hr hs' hk,
          Cycle.forget_forget, Inst.forget_forget]
        rfl
  · rw [ifStage_of_not_running hr, ifStage_of_not_running (c := c.forget) hr]
    exact Flow.forget_forget (.go { c with s := { c.s with slots := { c.s.slots with decode := .bubble } } })

/-- The IF stage of two cycles that differ only in predictions. -/
theorem ifStage_forget_congr (h : c.forget = c'.forget)
    (hf : ∀ f, c.s.slots.fetch = .instr f → ∃ k, f.behaviour = .conforming k)
    (hf' : ∀ f, c'.s.slots.fetch = .instr f → ∃ k, f.behaviour = .conforming k) :
    (ifStage c).forget = (ifStage c').forget := by
  rw [← ifStage_forget hf, ← ifStage_forget hf', h]

theorem stallCycle_forget_forget (c : Cycle) (x : Stall) :
    (stallCycle c.forget x).forget = (stallCycle c x).forget := by
  rw [stallCycle_forget, Flow.forget_forget]

theorem redirectCycle_forget_congr (h : c.forget = c'.forget) (target : Addr) :
    (redirectCycle c target).forget = (redirectCycle c' target).forget := by
  rw [← redirectCycle_forget, ← redirectCycle_forget, h]

theorem hasResource_forget (i : Inst) (s : State) : i.forget.hasResource s.forget = i.hasResource s := by
  cases hu : i.fpUnit with
  | some u =>
    rw [Inst.hasResource_unit hu, Inst.hasResource_unit (i := i.forget) hu, forget_fu, canAdmit_forget]
  | none =>
    rw [Inst.hasResource_execute hu, Inst.hasResource_execute (i := i.forget) hu]
    exact congrArg (!·) s.slots.execute.real_forget

/-- The predictor is all that BP.RESOLVE writes in the decode hook. -/
theorem decoded_forget_eq (i : Inst) (k : Conforming) (s : State) : (i.decoded k s).forget = { s.forget with
    regs := raisedRegs s.regs k
    collab := match k.control with
      | .sequential => s.collab
      | .jump _ _ => s.collab
      | .branch _ _ => (nextOutcome s.collab).2 } := rfl

theorem decoded_forget (i : Inst) (k : Conforming) (s : State) :
    (i.forget.decoded k s.forget).forget = (i.decoded k s).forget := by
  rw [decoded_forget_eq, decoded_forget_eq, State.forget_forget]
  rfl

/-- The placement after the decode hook of an instruction and of what it is without its prediction. -/
theorem place_decoded_forget (i : Inst) (k : Conforming) (s : State) :
    (i.forget.place (i.forget.decoded k s.forget)).forget = (i.place (i.decoded k s)).forget := by
  rw [← place_forget, Inst.forget_forget, decoded_forget, place_forget]

theorem fetch_conforming_forget {s : State}
    (hd : ∀ f, s.slots.fetch = .instr f → ∃ k, f.behaviour = .conforming k) :
    ∀ f, s.forget.slots.fetch = .instr f → ∃ k, f.behaviour = .conforming k := by
  intro f hf
  cases hs : s.slots.fetch with
  | empty => rw [show s.forget.slots.fetch = s.slots.fetch.forget from rfl, hs] at hf; cases hf
  | bubble => rw [show s.forget.slots.fetch = s.slots.fetch.forget from rfl, hs] at hf; cases hf
  | instr g =>
    rw [show s.forget.slots.fetch = s.slots.fetch.forget from rfl, hs] at hf
    cases hf
    exact hd g hs

/-- The attempt without a hazard of a conforming instruction, without the predictions. -/
theorem decodeAndPlace_clear_forget (hk : i.behaviour = .conforming k) (hx : hazardOf c.s.regs k = none)
    (hf : ∀ f, c.s.slots.fetch = .instr f → ∃ k, f.behaviour = .conforming k) :
    (decodeAndPlace i.forget i.forget.place ifStage c.forget).forget
      = (decodeAndPlace i i.place ifStage c).forget := by
  have hcycle : (Cycle.mk (i.forget.place (i.forget.decoded k c.forget.s)) c.res).forget
      = (Cycle.mk (i.place (i.decoded k c.s)) c.res).forget :=
    congrArg (Cycle.mk · c.res) (place_decoded_forget i k c.s)
  rw [decodeAndPlace_clear hk hx, decodeAndPlace_clear (i := i.forget) (c := c.forget) hk hx,
    show c.forget.s.collab = c.s.collab from rfl]
  cases k.redirectsTo c.s.collab with
  | some target => exact redirectCycle_forget_congr hcycle target
  | none =>
    refine ifStage_forget_congr hcycle (fun f h => ?_) fun f h => ?_
    · exact fetch_conforming_forget hf f ((i.forget.place_frame (i.forget.decoded k c.forget.s)).1.symm.trans h)
    · exact hf f ((i.place_frame (i.decoded k c.s)).1.symm.trans h)

theorem idStage_forget (hf : ∀ f, c.s.slots.fetch = .instr f → ∃ k, f.behaviour = .conforming k)
    (hd : ∀ i, c.s.slots.decode = .instr i → ∃ k, i.behaviour = .conforming k) :
    (idStage ifStage c.forget).forget = (idStage ifStage c).forget := by
  have hdecode : c.forget.s.slots.decode = c.s.slots.decode.forget := rfl
  cases hs : c.s.slots.decode with
  | empty =>
    rw [hs] at hdecode
    simp only [idStage, hs, hdecode, Slot.forget]
    exact ifStage_forget hf
  | bubble =>
    rw [hs] at hdecode
    have hreal : c.forget.s.slots.execute.real = c.s.slots.execute.real := Slot.real_forget _
    simp only [idStage, hs, hdecode, Slot.forget, hreal]
    split
    · exact stallCycle_forget_forget c .ex
    · exact ifStage_forget (c := { c with s := placeBubble c.s }) hf
  | instr i =>
    rw [hs] at hdecode
    obtain ⟨k, hk⟩ := hd i hs
    have hresource : i.forget.hasResource c.forget.s = i.hasResource c.s := hasResource_forget i c.s
    cases hfree : i.hasResource c.s with
    | false =>
      rw [idStage_blocked hs hfree, idStage_blocked hdecode (hresource.trans hfree)]
      exact stallCycle_forget_forget c i.resourceStall
    | true =>
      rw [idStage_free hs hfree, idStage_free hdecode (hresource.trans hfree)]
      cases hx : hazardOf c.s.regs k with
      | some x =>
        rw [decodeAndPlace_hazard hk hx, decodeAndPlace_hazard (i := i.forget) (c := c.forget) hk hx]
        exact stallCycle_forget_forget c x
      | none => exact decodeAndPlace_clear_forget hk hx hf

end Front

/-! ### The cycle -/

section Cycle

variable {s : State}

/-- A cycle of conforming instructions, seen without the predictions. -/
theorem runCycle_forget (ha : s.AllConform) : (runCycle s.forget).forget = (runCycle s).forget := by
  have ha' := (allConform_forget s).2 ha
  rcases runCycle_regimes ha with ⟨hn, h, k, hterm, hk, hrun⟩ | ⟨hn, hp, kind, hx, hrun⟩ | ⟨hn, hp, hrun⟩
  · obtain ⟨_, hempty, hmem⟩ := retires_of_not_notHalting hn
    have hterm' : s.forget.nextTerm = some h.forget := by rw [nextTerm_forget, hterm]; rfl
    have hrun' := runCycle_halts (fun i hi => ha'.slot .writeback hi) hterm' hk
      ((trackerEmpty_forget _).trans hempty) ((Slot.real_forget _).trans hmem)
    rw [hrun, hrun', haltedCycle_forget]
    exact Flow.forget_forget (.ends (s.haltedCycle k))
  · obtain ⟨hm, ht, _⟩ := exception_of_not_notCutShort ha hp
    have hrun' := runCycle_cutShort ha' ((notHalting_forget s).2 hn) hm ht ((exception_forget s).trans hx)
    rw [hrun, hrun', cutCycle_forget]
    exact Flow.forget_forget (.ends (s.cutCycle kind))
  · rw [hrun, runCycle_conforming ha' ((notHalting_forget s).2 hn) ((notCutShort_forget s).2 hp),
      cycleAtDecode_forget]
    exact idStage_forget (c := s.cycleAtDecode) (fun f hf => ha.slot .fetch hf) fun i hi => ha.slot .decode hi

theorem Flow.runs_of_forget_eq {f g : Flow} {d : Cycle} (h : f.forget = g.forget) (hf : Runs f d) :
    ∃ e, Runs g e ∧ d.forget = e.forget := by
  rcases hf with rfl | rfl
  · cases g with
    | go e => exact ⟨e, .inl rfl, Flow.go.inj h⟩
    | ends e => exact Flow.noConfusion h
    | breach => exact Flow.noConfusion h
  · cases g with
    | go e => exact Flow.noConfusion h
    | ends e => exact ⟨e, .inr rfl, Flow.ends.inj h⟩
    | breach => exact Flow.noConfusion h

end Cycle

/-- Settles O59: both cycles are that of the common state without predictions. -/
theorem predictionSteersNothing : Obligations.PredictionSteersNothing := by
  intro s₁ s₂ hs ha hforget
  have ha₂ : s₂.AllConform := (allConform_forget s₂).1 (hforget ▸ (allConform_forget s₁).2 ha)
  have hs₂ : s₂.Steps := ⟨(congrArg (·.status.steps) hforget).symm.trans hs.1,
    (congrArg State.aborted hforget).symm.trans hs.2⟩
  have hrun : (runCycle s₁).forget = (runCycle s₂).forget := by
    rw [← runCycle_forget ha, ← runCycle_forget ha₂, hforget]
  obtain ⟨d₁, h₁⟩ := runCycle_answers ha
  obtain ⟨d₂, h₂, hd⟩ := Flow.runs_of_forget_eq hrun h₁
  refine ⟨_, _, exec_peStep_runs hs h₁, exec_peStep_runs hs₂ h₂, ?_⟩
  exact congrArg (fun d : Cycle => d.s.done (.step d.res)) hd

end Sys2Proof.Machine
